-- ==== Sys2Proof/Config.lean ====
section
/-! DEFINITION. Config.lean: the three implementation parameters the spec leaves open (00_scope.md R6).
The model takes them as an argument (`Machine.State.resetOf`); it has no free value. -/
namespace Sys2Proof

/-- The parameters of 00_scope.md R6. -/
structure Config where
  /-- `NUM_DECODERS`: the number of Decoder instances (D27). -/
  numDecoders : Nat
  /-- `PENDING_CAP`: the most bytes one `pending` may hold; `none` is ∞ (D19). -/
  pendingCap : Option Nat
  /-- `LEN_WIDTH`: the bit width of the ports that carry byte counts; `none` is no bound (D20). -/
  lenWidth : Option Nat
deriving DecidableEq, Repr

/-- What R6 and R155 ask of the parameters: at least one instance, and a finite `PENDING_CAP` of at least 13. -/
def Config.valid (c : Config) : Bool :=
  decide (1 ≤ c.numDecoders) &&
    (match c.pendingCap with
     | none => true
     | some cap => decide (13 ≤ cap))

/-- The parameters of `Machine.State.reset`. DESIGN CHOICE (log entry 2, unsafe): four instances, the number the
programs of 95_test_vectors.md §8 need; `PENDING_CAP` is the spec's default ∞ (D19). -/
def Config.default : Config := { numDecoders := 4, pendingCap := none, lenWidth := none }

end Sys2Proof
end

