-- ==== Sys2Proof/Word.lean ====
section
/-! DEFINITION. Word.lean: the byte and the byte sequence, the two types every operand is made of (00_scope.md §4). -/
namespace Sys2Proof

/-- `Byte`: an 8-bit unsigned value (00_scope.md §4). Bit 7 is the most significant (R8). -/
abbrev Byte := BitVec 8

/-- `Bytes`: a finite sequence of bytes, of any length (00_scope.md §4, 20_memory.md R39). -/
abbrev Bytes := List Byte

end Sys2Proof
end

