-- ==== Sys2Proof/Syntax.lean ====
section
/-! DEFINITION. Syntax.lean: the records an operation carries (10_state.md §2), the operations (one constructor per row
of opcode_table.json), and the raw request records they are decoded from (30_encoding.md §5, §7). -/
namespace Sys2Proof

/-- The 4-byte masking key `mask[0..3]`, in wire order (30_encoding.md R60). -/
structure MaskKey where
  k0 : Byte
  k1 : Byte
  k2 : Byte
  k3 : Byte
deriving DecidableEq, Repr

/-- A Header record (10_state.md R22). -/
structure Header where
  fin : Bool
  rsv1 : Bool
  rsv2 : Bool
  rsv3 : Bool
  opCode : BitVec 4
  isMasked : Bool
  payloadSize : BitVec 64
  mask : MaskKey
deriving DecidableEq, Repr

/-- The operations. The first eleven are the commands of 30_encoding.md R70. The other ten are the rows of the table's
two wire spaces: byte 0 of a header by its OpCode field (R64, R65) and byte 1 by its length form (R58, R59), each with
the bytes around it (log entry 4). -/
inductive Instr where
  | hdrDecode (s : Bytes)
  | hdrEncode (header : Header) (cap : Nat)
  | hdrSize (payloadSize : BitVec 64) (isMasked : Bool)
  | maskApply (mask : MaskKey) (data : Bytes)
  | csDecode (data : Bytes)
  | csEncode (code : BitVec 16) (cap : Nat)
  | csClassify (code : BitVec 16)
  | csNamedProtocol (code : BitVec 16)
  | csNamedIana (code : BitVec 16)
  | decInit (d : Nat)
  | decFeed (d : Nat) (chunk : Bytes)
  | frameContinuation (fin rsv1 rsv2 rsv3 : Bool) (rest : Bytes)
  | frameText (fin rsv1 rsv2 rsv3 : Bool) (rest : Bytes)
  | frameBinary (fin rsv1 rsv2 rsv3 : Bool) (rest : Bytes)
  | frameConnectionClose (fin rsv1 rsv2 rsv3 : Bool) (rest : Bytes)
  | framePing (fin rsv1 rsv2 rsv3 : Bool) (rest : Bytes)
  | framePong (fin rsv1 rsv2 rsv3 : Bool) (rest : Bytes)
  | frameInvalidOpcode (fin rsv1 rsv2 rsv3 : Bool) (opCode : BitVec 4) (rest : Bytes)
  | len7 (byte0 : Byte) (isMasked : Bool) (lengthField : BitVec 7) (rest : Bytes)
  | len16 (byte0 : Byte) (isMasked : Bool) (rest : Bytes)
  | len64 (byte0 : Byte) (isMasked : Bool) (rest : Bytes)
deriving DecidableEq, Repr

/-- The operand ports of a command request: the fields of 30_encoding.md R76 to R84, each under its own name. An
operation reads the ports of its own request record and no other (log entry 3). -/
structure Operands where
  s : Bytes
  header : Header
  cap : Nat
  payloadSize : BitVec 64
  isMasked : Bool
  mask : MaskKey
  data : Bytes
  code : BitVec 16
  d : Nat
  chunk : Bytes
deriving DecidableEq, Repr

/-- A raw request. `command` is the request record of 30_encoding.md R69. `headerByte0` and `headerByte1` present the
Header unit with a header whose byte 0, or bytes 0 and 1, are singled out: the table's two wire spaces (log entry 4). -/
inductive Request where
  | command (cmd : Byte) (ops : Operands)
  | headerByte0 (byte0 : Byte) (rest : Bytes)
  | headerByte1 (byte0 byte1 : Byte) (rest : Bytes)
deriving DecidableEq, Repr

/-- Why a request has no operation. -/
inductive DecodeError where
  /-- The command byte is not in 30_encoding.md R70 (R71). -/
  | badCommand (cmd : Byte)
deriving DecidableEq, Repr

/-- What the host can do to the block: issue a request (30_encoding.md R69), or reset the whole block
(70_reset_and_hazards.md R185). -/
inductive HostInput where
  | request (r : Request)
  | blockReset
deriving DecidableEq, Repr

end Sys2Proof
end

