-- ==== Sys2Proof/Machine/State.lean ====
section
/-! DEFINITION. Machine/State.lean: everything the spec gives the block (10_state.md), the records of its responses
(30_encoding.md §6, §7), the reasons a step can stop, and the state after block reset (R37, R185). -/
namespace Sys2Proof.Machine

/-- `status` of a Decoder instance (10_state.md R27; three states: 90_conflicts.md C3). -/
inductive Status where
  | awaitingHeader
  | awaitingPayload
  | errored
deriving DecidableEq, Repr

/-- The fault cause codes (60_exceptions.md R171). -/
inductive FaultCause where
  | none
  | badCommand
  | badInstance
  | hdrBadOpcode
  | hdrDstTooSmall
  | csDstTooSmall
  | pendingOverflow
deriving DecidableEq, Repr

/-- One Decoder instance (10_state.md R26). -/
structure DecoderState where
  status : Status
  pending : Bytes
  currentHeader : Option Header
deriving DecidableEq, Repr

/-- A Frame record, payload unmasked (10_state.md R24). -/
structure Frame where
  header : Header
  payload : Bytes
deriving DecidableEq, Repr

/-- The HDR_DECODE outcomes (30_encoding.md R72). Only `success` has a header and a count (40_header.md R93). -/
inductive HdrOutcome where
  | success (header : Header) (consumed : Nat)
  | incomplete
  | invalidOpCode
  | payloadSizeInflatedEncoding
  | payloadSizeEighthByteMSBNotZero
deriving DecidableEq, Repr

/-- The ranges of a close status code (30_encoding.md R73). -/
inductive CodeRange where
  | unused
  | protocol
  | iana
  | privateRange
  | outside
deriving DecidableEq, Repr

/-- The named codes of the Protocol range (30_encoding.md R74). -/
inductive ProtocolName where
  | normal
  | goingAway
  | protocolError
  | unacceptableData
  | noCodeProvided
  | mismatchedData
  | policyViolation
  | tooMuchData
  | lackingExtension
  | unexpectedCondition
deriving DecidableEq, Repr

/-- The named codes of the IANA range (30_encoding.md R75). -/
inductive IanaName where
  | unauthorised
  | forbidden
deriving DecidableEq, Repr

/-- The response record of each operation (30_encoding.md R76 to R84), and `fault(cause)` (60_exceptions.md R170). -/
inductive Response where
  | hdrDecode (outcome : HdrOutcome)
  | hdrEncode (out : Bytes) (n : Nat)
  | hdrSize (size : Nat)
  | maskApply (data : Bytes)
  | csDecode (code : BitVec 16)
  | csEncode (out : Bytes) (written : Nat)
  | csClassify (range : CodeRange)
  | csNamedProtocol (hit : Bool) (name : BitVec 4)
  | csNamedIana (hit : Bool) (name : BitVec 1)
  | decInit
  | decFeed (parseError : Bool) (frames : List Frame) (numExtra : Nat)
  | fault (cause : FaultCause)
deriving DecidableEq, Repr

/-- The block. `decoders` and `fault` are the spec's state (10_state.md R20); `NUM_DECODERS` is the length of
`decoders`, and `pendingCap` and `lenWidth` are the other two parameters of 00_scope.md R6, written by no step; `inputs`,
`issued` and `responses` are the model's own (log entry 1): what the host has yet to have performed, and the requests
and responses of the run so far (70_reset_and_hazards.md R199). -/
structure State where
  decoders : List DecoderState
  fault : FaultCause
  pendingCap : Option Nat
  lenWidth : Option Nat
  inputs : List HostInput
  issued : List Request
  responses : List Response
deriving DecidableEq, Repr

/-- Why a step stops. -/
inductive Fault where
  /-- Raised by the step on a request, and by every meaning, while `FAULT ≠ 0`: "WSFRAME completes no further operation
  until block reset" (60_exceptions.md R173). Safe: the spec's own stuck state. -/
  | quiescent (cause : FaultCause)
  /-- Raised by DEC_FEED on an instance in `AwaitingPayload` that holds no header. 10_state.md R26 rules that state out,
  and no run reaches it (log entry 9). Safe: the model stops. -/
  | noCurrentHeader (d : Nat)
deriving DecidableEq, Repr

/-- Why an operation has no meaning. -/
inductive Refusal where
  /-- Raised by an arm of `exec` whose operation has no meaning yet; no arm is left so. Safe: the model stops. -/
  | notModelled (mnemonic : String)
deriving DecidableEq, Repr

/-- A Decoder instance after reset (10_state.md R37): σ0 of 95_test_vectors.md. -/
def DecoderState.initial : DecoderState :=
  { status := .awaitingHeader, pending := [], currentHeader := none }

/-- The parameters of the block (00_scope.md R6). -/
def State.config (s : State) : Config :=
  { numDecoders := s.decoders.length, pendingCap := s.pendingCap, lenWidth := s.lenWidth }

/-- The block with parameters `c` after block reset (10_state.md R37, 70_reset_and_hazards.md R185), with nothing asked
of it yet. -/
def State.resetOf (c : Config) : State :=
  { decoders := List.replicate c.numDecoders DecoderState.initial,
    fault := .none,
    pendingCap := c.pendingCap,
    lenWidth := c.lenWidth,
    inputs := [],
    issued := [],
    responses := [] }

/-- The machine after reset, with the parameters of log entry 2. -/
def State.reset : State := State.resetOf Config.default

end Sys2Proof.Machine
end

