-- ==== Sys2Proof/Machine/Flags.lean ====
section
/-! DEFINITION. Machine/Flags.lean: the block keeps no condition flags (10_state.md R35); here are the numeric codes by
which its outcomes, ranges, names, statuses and causes are written on a port (30_encoding.md §6). -/
namespace Sys2Proof.Machine

/-- The 3-bit HDR_DECODE outcome code (30_encoding.md R72). -/
def HdrOutcome.code : HdrOutcome → BitVec 3
  | .success _ _ => 0
  | .incomplete => 1
  | .invalidOpCode => 2
  | .payloadSizeInflatedEncoding => 3
  | .payloadSizeEighthByteMSBNotZero => 4

/-- The 3-bit CodeRange code (30_encoding.md R73). -/
def CodeRange.code : CodeRange → BitVec 3
  | .unused => 0
  | .protocol => 1
  | .iana => 2
  | .privateRange => 3
  | .outside => 4

/-- The 4-bit name number of a Protocol name (30_encoding.md R74). -/
def ProtocolName.code : ProtocolName → BitVec 4
  | .normal => 0
  | .goingAway => 1
  | .protocolError => 2
  | .unacceptableData => 3
  | .noCodeProvided => 4
  | .mismatchedData => 5
  | .policyViolation => 6
  | .tooMuchData => 7
  | .lackingExtension => 8
  | .unexpectedCondition => 9

/-- The 1-bit name number of an IANA name (30_encoding.md R75). -/
def IanaName.code : IanaName → BitVec 1
  | .unauthorised => 0
  | .forbidden => 1

/-- The 2-bit number of a Decoder status (10_state.md R27). -/
def Status.code : Status → BitVec 2
  | .awaitingHeader => 0
  | .awaitingPayload => 1
  | .errored => 2

/-- The 8-bit fault cause code `FAULT` holds (60_exceptions.md R171). -/
def FaultCause.code : FaultCause → BitVec 8
  | .none => 0
  | .badCommand => 1
  | .badInstance => 2
  | .hdrBadOpcode => 3
  | .hdrDstTooSmall => 4
  | .csDstTooSmall => 5
  | .pendingOverflow => 6

/-- The `(hit, name)` response of CS_NAMED_PROTOCOL; on no match `name` is 0 (30_encoding.md R74). -/
def protocolNameResponse : Option ProtocolName → Response
  | some n => .csNamedProtocol true n.code
  | none => .csNamedProtocol false 0

/-- The `(hit, name)` response of CS_NAMED_IANA; on no match `name` is 0 (30_encoding.md R75). -/
def ianaNameResponse : Option IanaName → Response
  | some n => .csNamedIana true n.code
  | none => .csNamedIana false 0

end Sys2Proof.Machine
end

