-- ==== Sys2Proof/Decode.lean ====
section
/-! DEFINITION. Decode.lean: the fields of header bytes 0 and 1 (30_encoding.md R56, R57), the decoder of a request
record, total and rejecting by name, the encoder written from the same tables, and the host's two table functions. -/
namespace Sys2Proof

/-! ### Header bytes 0 and 1 -/

/-- FIN, bit 7 of byte 0 (R56). -/
def finBit (b : Byte) : Bool := b.getLsbD 7

/-- RSV1, bit 6 of byte 0 (R56). -/
def rsv1Bit (b : Byte) : Bool := b.getLsbD 6

/-- RSV2, bit 5 of byte 0 (R56). -/
def rsv2Bit (b : Byte) : Bool := b.getLsbD 5

/-- RSV3, bit 4 of byte 0 (R56). -/
def rsv3Bit (b : Byte) : Bool := b.getLsbD 4

/-- OpCode, bits 3..0 of byte 0 (R56). -/
def opCodeField (b : Byte) : BitVec 4 := b.extractLsb' 0 4

/-- Mask, bit 7 of byte 1 (R57). -/
def maskBit (b : Byte) : Bool := b.getLsbD 7

/-- LengthField, bits 6..0 of byte 1 (R57). -/
def lengthField (b : Byte) : BitVec 7 := b.extractLsb' 0 7

/-- "byte0 = FIN(1)·RSV1(1)·RSV2(1)·RSV3(1)·OpCode(4)" (R56). -/
def mkByte0 (fin rsv1 rsv2 rsv3 : Bool) (opCode : BitVec 4) : Byte :=
  BitVec.ofBool fin ++ (BitVec.ofBool rsv1 ++ (BitVec.ofBool rsv2 ++ (BitVec.ofBool rsv3 ++ opCode)))

/-- "byte1 = Mask(1)·LengthField(7)" (R57). -/
def mkByte1 (isMasked : Bool) (lf : BitVec 7) : Byte := BitVec.ofBool isMasked ++ lf

/-- The six valid frame opcodes (R64); every other 4-bit value is invalid (R65). -/
def validOpcode (op : BitVec 4) : Bool :=
  op == 0x0 || op == 0x1 || op == 0x2 || op == 0x8 || op == 0x9 || op == 0xA

/-! ### Requests to operations -/

/-- The command space (30_encoding.md R70). Every other command byte is reserved (R71). -/
def decodeCommand (cmd : Byte) (ops : Operands) : Except DecodeError Instr :=
  if cmd = 0x01 then .ok (.hdrDecode ops.s)
  else if cmd = 0x02 then .ok (.hdrEncode ops.header ops.cap)
  else if cmd = 0x03 then .ok (.hdrSize ops.payloadSize ops.isMasked)
  else if cmd = 0x10 then .ok (.maskApply ops.mask ops.data)
  else if cmd = 0x20 then .ok (.csDecode ops.data)
  else if cmd = 0x21 then .ok (.csEncode ops.code ops.cap)
  else if cmd = 0x22 then .ok (.csClassify ops.code)
  else if cmd = 0x23 then .ok (.csNamedProtocol ops.code)
  else if cmd = 0x24 then .ok (.csNamedIana ops.code)
  else if cmd = 0x30 then .ok (.decInit ops.d)
  else if cmd = 0x31 then .ok (.decFeed ops.d ops.chunk)
  else .error (.badCommand cmd)

/-- The byte-0 space (30_encoding.md R64, R65), total: every value of byte 0 is one row. -/
def decodeByte0 (b : Byte) (rest : Bytes) : Instr :=
  let fin := finBit b
  let rsv1 := rsv1Bit b
  let rsv2 := rsv2Bit b
  let rsv3 := rsv3Bit b
  let op := opCodeField b
  if op = 0x0 then .frameContinuation fin rsv1 rsv2 rsv3 rest
  else if op = 0x1 then .frameText fin rsv1 rsv2 rsv3 rest
  else if op = 0x2 then .frameBinary fin rsv1 rsv2 rsv3 rest
  else if op = 0x8 then .frameConnectionClose fin rsv1 rsv2 rsv3 rest
  else if op = 0x9 then .framePing fin rsv1 rsv2 rsv3 rest
  else if op = 0xA then .framePong fin rsv1 rsv2 rsv3 rest
  else .frameInvalidOpcode fin rsv1 rsv2 rsv3 op rest

/-- The byte-1 space (30_encoding.md R58, R59), total: "All 256 values of byte 1 are legal" (R67). -/
def decodeByte1 (b0 b1 : Byte) (rest : Bytes) : Instr :=
  let lf := lengthField b1
  if lf = 126 then .len16 b0 (maskBit b1) rest
  else if lf = 127 then .len64 b0 (maskBit b1) rest
  else .len7 b0 (maskBit b1) lf rest

/-- The decoder of the block: a request to its operation, or the reason there is none. -/
def decodeRequest : Request → Except DecodeError Instr
  | .command cmd ops => decodeCommand cmd ops
  | .headerByte0 b rest => .ok (decodeByte0 b rest)
  | .headerByte1 b0 b1 rest => .ok (decodeByte1 b0 b1 rest)

/-! ### Operations to requests -/

/-- The all-zero key (10_state.md R22). -/
def MaskKey.zero : MaskKey := ⟨0, 0, 0, 0⟩

/-- Every operand port at zero. -/
def Operands.idle : Operands :=
  { s := [],
    header := { fin := false, rsv1 := false, rsv2 := false, rsv3 := false, opCode := 0, isMasked := false,
                payloadSize := 0, mask := MaskKey.zero },
    cap := 0, payloadSize := 0, isMasked := false, mask := MaskKey.zero, data := [], code := 0, d := 0, chunk := [] }

/-- The encoder: the request record of an operation, with the ports it does not use at zero (log entry 3). -/
def encode : Instr → Request
  | .hdrDecode s => .command 0x01 { Operands.idle with s := s }
  | .hdrEncode h cap => .command 0x02 { Operands.idle with header := h, cap := cap }
  | .hdrSize ps m => .command 0x03 { Operands.idle with payloadSize := ps, isMasked := m }
  | .maskApply k data => .command 0x10 { Operands.idle with mask := k, data := data }
  | .csDecode data => .command 0x20 { Operands.idle with data := data }
  | .csEncode code cap => .command 0x21 { Operands.idle with code := code, cap := cap }
  | .csClassify code => .command 0x22 { Operands.idle with code := code }
  | .csNamedProtocol code => .command 0x23 { Operands.idle with code := code }
  | .csNamedIana code => .command 0x24 { Operands.idle with code := code }
  | .decInit d => .command 0x30 { Operands.idle with d := d }
  | .decFeed d chunk => .command 0x31 { Operands.idle with d := d, chunk := chunk }
  | .frameContinuation f r1 r2 r3 rest => .headerByte0 (mkByte0 f r1 r2 r3 0x0) rest
  | .frameText f r1 r2 r3 rest => .headerByte0 (mkByte0 f r1 r2 r3 0x1) rest
  | .frameBinary f r1 r2 r3 rest => .headerByte0 (mkByte0 f r1 r2 r3 0x2) rest
  | .frameConnectionClose f r1 r2 r3 rest => .headerByte0 (mkByte0 f r1 r2 r3 0x8) rest
  | .framePing f r1 r2 r3 rest => .headerByte0 (mkByte0 f r1 r2 r3 0x9) rest
  | .framePong f r1 r2 r3 rest => .headerByte0 (mkByte0 f r1 r2 r3 0xA) rest
  | .frameInvalidOpcode f r1 r2 r3 op rest => .headerByte0 (mkByte0 f r1 r2 r3 op) rest
  | .len7 b0 m lf rest => .headerByte1 b0 (mkByte1 m lf) rest
  | .len16 b0 m rest => .headerByte1 b0 (mkByte1 m 126) rest
  | .len64 b0 m rest => .headerByte1 b0 (mkByte1 m 127) rest

/-! ### The host's table functions -/

/-- Is this a command byte of 30_encoding.md R70? -/
def isCommandByte (b : Byte) : Bool :=
  match decodeCommand b Operands.idle with
  | .ok _ => true
  | .error _ => false

/-- The request the host's table word stands for. A word of the table does not say which of the table's three opcode
spaces it belongs to, and the spaces share bytes; log entry 5 gives the choice made here. A word with bit 7 set is a
`hdr_byte1` word, for the table gives bit 7 as a field in that space only. Otherwise a command byte is a command, a
LengthField of 126 or 127 is a `hdr_byte1` word, and the rest are `hdr_byte0` words. The other operands are zero. -/
def tableRequest (_nbits w : Nat) : Request :=
  let b : Byte := BitVec.ofNat 8 w
  if b.getLsbD 7 then .headerByte1 0 b []
  else if isCommandByte b then .command b Operands.idle
  else if lengthField b = 126 ∨ lengthField b = 127 then .headerByte1 0 b []
  else .headerByte0 b []

/-- The operation the decoder reads from a table word. -/
def decodeTableWord (nbits w : Nat) : Option Instr :=
  match decodeRequest (tableRequest nbits w) with
  | .ok i => some i
  | .error _ => none

end Sys2Proof
end

