-- ==== Sys2Proof/Machine/Ops.lean ====
section
/-! DEFINITION. Machine/Ops.lean: the named operations over byte sequences and over the block's state: big-endian access,
the encoded size, masking, answering, taking a Fault, reading and writing a Decoder instance, and block reset. -/
namespace Sys2Proof.Machine

/-- The outcome of one operation. -/
abbrev StepResult := Host.Outcome State Fault Refusal

/-! ### Byte sequences (00_scope.md §4, 20_memory.md R41) -/

/-- `s[i]`; the rules read it only for `i < len(s)`. -/
def byteAt (s : Bytes) (i : Nat) : Byte := s.getD i 0

/-- The unsigned big-endian integer of a byte sequence (00_scope.md R9). -/
def bigEndian (s : Bytes) : Nat := s.foldl (fun acc b => acc * 256 + b.toNat) 0

/-- `MemRead(s, i, n)`: the big-endian integer of the `n` bytes `s[i..i+n)`. -/
def memRead (s : Bytes) (i n : Nat) : Nat := bigEndian ((s.drop i).take n)

/-- The `n` bytes `MemWrite(_, _, n, v)` writes: `v mod 256^n`, big-endian. -/
def memWrite : Nat → Nat → Bytes
  | 0, _ => []
  | n + 1, v => BitVec.ofNat 8 (v >>> (8 * n)) :: memWrite n v

/-! ### Shared functions of the units -/

/-- `EncSize` (30_encoding.md R61). -/
def encSize (payloadSize : BitVec 64) (isMasked : Bool) : Nat :=
  2
  + (if 126 ≤ payloadSize.toNat ∧ payloadSize.toNat ≤ 65535 then 2 else 0)
  + (if payloadSize.toNat ≥ 65536 then 8 else 0)
  + (if isMasked then 4 else 0)

/-- `mask[j]`, for `j < 4` (30_encoding.md R60). -/
def keyByte (k : MaskKey) (j : Nat) : Byte :=
  match j with
  | 0 => k.k0
  | 1 => k.k1
  | 2 => k.k2
  | _ => k.k3

/-- The masking loop from payload index `i` on: `out[i] <- data[i] ^ mask[i mod 4]` (41_masking.md R110). -/
def maskFrom (k : MaskKey) : Nat → Bytes → Bytes
  | _, [] => []
  | i, b :: rest => (b ^^^ keyByte k (i % 4)) :: maskFrom k (i + 1) rest

/-- `ApplyMask`: the key index starts at 0 at the first byte (41_masking.md R110, R111). -/
def applyMask (data : Bytes) (k : MaskKey) : Bytes := maskFrom k 0 data

/-- Do `n` bytes fit in a `pending` of capacity `cap` (10_state.md R28)? `none` is ∞. -/
def fitsCap (cap : Option Nat) (n : Nat) : Bool :=
  match cap with
  | none => true
  | some c => decide (n ≤ c)

/-! ### Answering and faulting -/

/-- `return r`: the operation ends normally with response `r` (00_scope.md §4). -/
def State.respond (s : State) (r : Response) : State := { s with responses := s.responses ++ [r] }

/-- `raise Fault(cause)`: `FAULT` takes the cause, the response is `fault(cause)`, nothing else changes
(60_exceptions.md R170, R175). -/
def State.raise (s : State) (cause : FaultCause) : State :=
  { s with fault := cause, responses := s.responses ++ [.fault cause] }

/-- The first test of every operation: no step while `FAULT ≠ 0` (60_exceptions.md R169, R173). -/
def State.whenLive (s : State) (k : StepResult) : StepResult :=
  if s.fault = .none then k else .fault (.quiescent s.fault)

/-- An operation that only computes a response (20_memory.md R44). -/
def State.answer (s : State) (r : Response) : StepResult := s.whenLive (.next (s.respond r))

/-! ### Decoder instances -/

/-- Write the state of instance `d`. -/
def State.setDecoder (s : State) (d : Nat) (st : DecoderState) : State :=
  { s with decoders := s.decoders.set d st }

/-- A Decoder operation on instance `d`: `Fault(BAD_INSTANCE)` when `d ≥ NUM_DECODERS` (30_encoding.md R71), the second
test after `FAULT` (60_exceptions.md R169). -/
def State.withDecoder (s : State) (d : Nat) (k : DecoderState → StepResult) : StepResult :=
  s.whenLive (match s.decoders[d]? with
    | some st => k st
    | none => .next (s.raise .badInstance))

/-! ### The host's inputs -/

/-- Take request `r` as the next one performed, with `rest` still to come. -/
def State.accept (s : State) (r : Request) (rest : List HostInput) : State :=
  { s with inputs := rest, issued := s.issued ++ [r] }

/-- Block reset: every piece of state at its reset value (70_reset_and_hazards.md R185). The parameters stay, the host's
later inputs stay, and a new run begins (R199; log entry 7). -/
def State.blockReset (s : State) (rest : List HostInput) : State :=
  { State.resetOf s.config with inputs := rest }

end Sys2Proof.Machine
end

