-- ==== Sys2Proof/Machine/CloseStatus.lean ====
section
/-! DEFINITION. Machine/CloseStatus.lean: the CloseStatus unit (42_closestatus.md). -/
namespace Sys2Proof.Machine

/-- `CsDecode` (42_closestatus.md R119): 1005 for fewer than 2 bytes (R120). -/
def csDecode (data : Bytes) : BitVec 16 :=
  if data.length < 2 then 1005 else BitVec.ofNat 16 (memRead data 0 2)

/-- `CsClassify` (42_closestatus.md R126). -/
def csClassify (code : BitVec 16) : CodeRange :=
  if code.toNat ≤ 999 then .unused
  else if code.toNat ≤ 2999 then .protocol
  else if code.toNat ≤ 3999 then .iana
  else if code.toNat ≤ 4999 then .privateRange
  else .outside

/-- `CsNamedProtocol` (42_closestatus.md R128). -/
def csNamedProtocol (code : BitVec 16) : Option ProtocolName :=
  if code = 1000 then some .normal
  else if code = 1001 then some .goingAway
  else if code = 1002 then some .protocolError
  else if code = 1003 then some .unacceptableData
  else if code = 1005 then some .noCodeProvided
  else if code = 1007 then some .mismatchedData
  else if code = 1008 then some .policyViolation
  else if code = 1009 then some .tooMuchData
  else if code = 1010 then some .lackingExtension
  else if code = 1011 then some .unexpectedCondition
  else none

/-- `CsNamedIana` (42_closestatus.md R130). -/
def csNamedIana (code : BitVec 16) : Option IanaName :=
  if code = 3000 then some .unauthorised
  else if code = 3003 then some .forbidden
  else none

/-- CS_DECODE (42_closestatus.md R119). -/
def execCsDecode (data : Bytes) (s : State) : StepResult := s.answer (.csDecode (csDecode data))

/-- CS_ENCODE (42_closestatus.md R122): code 1005 writes nothing and never faults (R123). -/
def execCsEncode (code : BitVec 16) (cap : Nat) (s : State) : StepResult :=
  s.whenLive
    (if code = 1005 then .next (s.respond (.csEncode [] 0))
     else if cap < 2 then .next (s.raise .csDstTooSmall)
     else .next (s.respond (.csEncode (memWrite 2 code.toNat) 2)))

/-- CS_CLASSIFY (42_closestatus.md R126). -/
def execCsClassify (code : BitVec 16) (s : State) : StepResult := s.answer (.csClassify (csClassify code))

/-- CS_NAMED_PROTOCOL (42_closestatus.md R128). -/
def execCsNamedProtocol (code : BitVec 16) (s : State) : StepResult :=
  s.answer (protocolNameResponse (csNamedProtocol code))

/-- CS_NAMED_IANA (42_closestatus.md R130). -/
def execCsNamedIana (code : BitVec 16) (s : State) : StepResult :=
  s.answer (ianaNameResponse (csNamedIana code))

end Sys2Proof.Machine
end

