-- ==== Sys2Proof/Machine/Operands.lean ====
section
/-! DEFINITION. Machine/Operands.lean: the operand forms of the Header unit: reading a header field by field
(40_header.md R85) and writing one (R96). -/
namespace Sys2Proof.Machine

/-- What reading the length fields of a header gives: a payload size and the offset after them, or the reason there is
none yet. -/
inductive LengthResult where
  | incomplete
  | inflated
  | msbNotZero
  | size (payloadSize : BitVec 64) (off : Nat)
deriving DecidableEq, Repr

/-- LengthField 126: the 16-bit extended length (30_encoding.md R59; 40_header.md R88). -/
def readLength16 (s : Bytes) : LengthResult :=
  if s.length < 4 then .incomplete
  else if memRead s 2 2 < 126 then .inflated
  else .size (BitVec.ofNat 64 (memRead s 2 2)) 4

/-- LengthField 127: the 64-bit extended length (30_encoding.md R59; 40_header.md R89, R90, R91). -/
def readLength64 (s : Bytes) : LengthResult :=
  if s.length < 10 then .incomplete
  else if (byteAt s 2).getLsbD 7 then .msbNotZero
  else if memRead s 2 8 < 65536 then .inflated
  else .size (BitVec.ofNat 64 (memRead s 2 8)) 10

/-- The length fields of header `s` with LengthField `lf` (30_encoding.md R58, R59). -/
def readLength (lf : BitVec 7) (s : Bytes) : LengthResult :=
  if lf.toNat ≤ 125 then .size (lf.setWidth 64) 2
  else if lf.toNat = 126 then readLength16 s
  else readLength64 s

/-- The masking key at offset `off`, and the offset after it; all zero and absent when not masked (30_encoding.md R60;
40_header.md R92, R95). -/
def readKey (isMasked : Bool) (s : Bytes) (off : Nat) : Option (MaskKey × Nat) :=
  if isMasked then
    if s.length < off + 4 then none
    else some (⟨byteAt s off, byteAt s (off + 1), byteAt s (off + 2), byteAt s (off + 3)⟩, off + 4)
  else some (MaskKey.zero, off)

/-- `HdrDecode` (40_header.md R85): fields in wire order, the first failing check decides (90_conflicts.md C10). -/
def hdrDecode (s : Bytes) : HdrOutcome :=
  if s.length < 2 then .incomplete
  else
    let b0 := byteAt s 0
    let b1 := byteAt s 1
    if !validOpcode (opCodeField b0) then .invalidOpCode
    else
      match readLength (lengthField b1) s with
      | .incomplete => .incomplete
      | .inflated => .payloadSizeInflatedEncoding
      | .msbNotZero => .payloadSizeEighthByteMSBNotZero
      | .size ps off =>
        match readKey (maskBit b1) s off with
        | none => .incomplete
        | some (key, n) =>
          .success
            { fin := finBit b0, rsv1 := rsv1Bit b0, rsv2 := rsv2Bit b0, rsv3 := rsv3Bit b0,
              opCode := opCodeField b0, isMasked := maskBit b1, payloadSize := ps, mask := key } n

/-- Byte 1 and the extended length field that HDR_ENCODE writes: the minimal form (40_header.md R96, R97, R99). -/
def lengthBytes (isMasked : Bool) (payloadSize : BitVec 64) : Bytes :=
  if payloadSize.toNat ≤ 125 then [mkByte1 isMasked (payloadSize.setWidth 7)]
  else if payloadSize.toNat ≤ 65535 then mkByte1 isMasked 126 :: memWrite 2 payloadSize.toNat
  else mkByte1 isMasked 127 :: memWrite 8 payloadSize.toNat

/-- The key bytes HDR_ENCODE writes: four when masked, none otherwise (40_header.md R98). -/
def keyBytes (isMasked : Bool) (k : MaskKey) : Bytes :=
  if isMasked then [k.k0, k.k1, k.k2, k.k3] else []

/-- The wire bytes of a Header (30_encoding.md R55; 40_header.md R96). -/
def headerBytes (h : Header) : Bytes :=
  mkByte0 h.fin h.rsv1 h.rsv2 h.rsv3 h.opCode ::
    (lengthBytes h.isMasked h.payloadSize ++ keyBytes h.isMasked h.mask)

end Sys2Proof.Machine
end

