-- ==== Sys2Proof/Machine/Decoder.lean ====
section
/-! DEFINITION. Machine/Decoder.lean: the Decoder unit, DEC_FEED (43_decoder.md) and DEC_INIT (70_reset_and_hazards.md R186). -/
namespace Sys2Proof.Machine

/-- How a DEC_FEED ends: it commits an instance state with its response, or it finds that `pending` would not fit, or
that the instance has no header to read (log entry 9). -/
inductive FeedEnd where
  | commit (st : DecoderState) (parseError : Bool) (frames : List Frame) (numExtra : Nat)
  | overflow
  | noHeader
deriving DecidableEq, Repr

/-- One row of the transition table 43_decoder.md R163: the call ends, or goes on with the bytes that remain. -/
inductive FeedStep where
  | stop (e : FeedEnd)
  | more (st : DecoderState) (rest : Bytes) (frames : List Frame)
deriving DecidableEq, Repr

/-- A buffering point: keep the unconsumed bytes as the new `pending`, if they fit (43_decoder.md R143, R146, R155). -/
def bufferRest (cap : Option Nat) (st : DecoderState) (rest : Bytes) (frames : List Frame) : FeedEnd :=
  if fitsCap cap rest.length then .commit { st with pending := rest } false frames rest.length else .overflow

/-- The Frame of header `h` and wire payload `p`, unmasked if the header says so (43_decoder.md R147, R159). -/
def mkFrame (h : Header) (p : Bytes) : Frame :=
  { header := h, payload := if h.isMasked then applyMask p h.mask else p }

/-- The terminal instance state (43_decoder.md R145; 10_state.md R33). -/
def DecoderState.failed : DecoderState := { status := .errored, pending := [], currentHeader := none }

/-- One row of R163, on the unconsumed bytes `rest = buf[cur..]`. -/
def feedStep (cap : Option Nat) (st : DecoderState) (rest : Bytes) (frames : List Frame) : FeedStep :=
  match st.status with
  | .awaitingHeader =>
    match hdrDecode rest with
    | .incomplete => .stop (bufferRest cap st rest frames)
    | .success h n => .more { status := .awaitingPayload, pending := [], currentHeader := some h } (rest.drop n) frames
    | .invalidOpCode => .stop (.commit .failed true frames rest.length)
    | .payloadSizeInflatedEncoding => .stop (.commit .failed true frames rest.length)
    | .payloadSizeEighthByteMSBNotZero => .stop (.commit .failed true frames rest.length)
  | .awaitingPayload =>
    match st.currentHeader with
    | none => .stop .noHeader
    | some h =>
      if rest.length < h.payloadSize.toNat then .stop (bufferRest cap st rest frames)
      else .more .initial (rest.drop h.payloadSize.toNat) (frames ++ [mkFrame h (rest.take h.payloadSize.toNat)])
  | .errored => .stop (.commit st true frames rest.length)

/-- The loop of 43_decoder.md R138. `fuel` bounds its rows; `len(rest) + 2` is always enough (R149; log entry 15), so the
case of no fuel is never met from `feed`. -/
def feedLoop (cap : Option Nat) : Nat → DecoderState → Bytes → List Frame → FeedEnd
  | 0, st, rest, frames => bufferRest cap st rest frames
  | fuel + 1, st, rest, frames =>
    match feedStep cap st rest frames with
    | .stop e => e
    | .more st' rest' frames' => feedLoop cap fuel st' rest' frames'

/-- `DecFeed` on one instance (43_decoder.md R138): an `Errored` instance answers at once (R141); otherwise the bytes to
interpret are `pending ++ chunk` (R140). -/
def feed (cap : Option Nat) (st : DecoderState) (chunk : Bytes) : FeedEnd :=
  if st.status = .errored then .commit st true [] chunk.length
  else feedLoop cap ((st.pending ++ chunk).length + 2) st (st.pending ++ chunk) []

/-- DEC_INIT (70_reset_and_hazards.md R186). -/
def execDecInit (d : Nat) (s : State) : StepResult :=
  s.withDecoder d (fun _ => .next ((s.setDecoder d .initial).respond .decInit))

/-- DEC_FEED (43_decoder.md R138): the state of instance `d` and the response are written together, or a Fault is raised
and the instance keeps its state (R164). -/
def execDecFeed (d : Nat) (chunk : Bytes) (s : State) : StepResult :=
  s.withDecoder d (fun st =>
    match feed s.pendingCap st chunk with
    | .commit st' parseError frames numExtra =>
      .next ((s.setDecoder d st').respond (.decFeed parseError frames numExtra))
    | .overflow => .next (s.raise .pendingOverflow)
    | .noHeader => .fault (.noCurrentHeader d))

end Sys2Proof.Machine
end

