-- ==== Sys2Proof/Machine/Header.lean ====
section
/-! DEFINITION. Machine/Header.lean: the Header unit, HDR_DECODE, HDR_ENCODE and HDR_SIZE (40_header.md). -/
namespace Sys2Proof.Machine

/-- HDR_DECODE (40_header.md R85). The structural outcomes are response values, not Faults. -/
def execHdrDecode (bytes : Bytes) (s : State) : StepResult :=
  s.answer (.hdrDecode (hdrDecode bytes))

/-- HDR_ENCODE (40_header.md R96): the opcode is tested before the capacity (R101, R100). -/
def execHdrEncode (h : Header) (cap : Nat) (s : State) : StepResult :=
  s.whenLive
    (if !validOpcode h.opCode then .next (s.raise .hdrBadOpcode)
     else if cap < encSize h.payloadSize h.isMasked then .next (s.raise .hdrDstTooSmall)
     else .next (s.respond (.hdrEncode (headerBytes h) (encSize h.payloadSize h.isMasked))))

/-- HDR_SIZE (40_header.md R103). -/
def execHdrSize (payloadSize : BitVec 64) (isMasked : Bool) (s : State) : StepResult :=
  s.answer (.hdrSize (encSize payloadSize isMasked))

end Sys2Proof.Machine
end

