-- ==== Sys2Proof/Machine/Masking.lean ====
section
/-! DEFINITION. Machine/Masking.lean: the Masking unit, MASK_APPLY (41_masking.md). -/
namespace Sys2Proof.Machine

/-- MASK_APPLY (41_masking.md R110). -/
def execMaskApply (k : MaskKey) (data : Bytes) (s : State) : StepResult :=
  s.answer (.maskApply (applyMask data k))

end Sys2Proof.Machine
end

