-- ==== Sys2Proof/Machine/Wire.lean ====
section
/-! DEFINITION. Machine/Wire.lean: the rows of the table's two wire spaces (30_encoding.md R58, R59, R64, R65). Each
stands for a header that has that byte, and its effect is what the Header unit answers on reading it (40_header.md R85;
log entry 4). -/
namespace Sys2Proof.Machine

/-- The Header unit's answer on a header with byte 0 of these flags and this opcode, followed by `rest`. -/
def readFrame (fin rsv1 rsv2 rsv3 : Bool) (opCode : BitVec 4) (rest : Bytes) : Response :=
  .hdrDecode (hdrDecode (mkByte0 fin rsv1 rsv2 rsv3 opCode :: rest))

/-- The Header unit's answer on a header of byte 0, a byte 1 of this Mask bit and LengthField, and `rest`. -/
def readLengthForm (byte0 : Byte) (isMasked : Bool) (lf : BitVec 7) (rest : Bytes) : Response :=
  .hdrDecode (hdrDecode (byte0 :: mkByte1 isMasked lf :: rest))

/-- FRAME_CONTINUATION: OpCode 0x0 (30_encoding.md R64). -/
def execFrameContinuation (fin rsv1 rsv2 rsv3 : Bool) (rest : Bytes) (s : State) : StepResult :=
  s.answer (readFrame fin rsv1 rsv2 rsv3 0x0 rest)

/-- FRAME_TEXT: OpCode 0x1 (30_encoding.md R64). -/
def execFrameText (fin rsv1 rsv2 rsv3 : Bool) (rest : Bytes) (s : State) : StepResult :=
  s.answer (readFrame fin rsv1 rsv2 rsv3 0x1 rest)

/-- FRAME_BINARY: OpCode 0x2 (30_encoding.md R64). -/
def execFrameBinary (fin rsv1 rsv2 rsv3 : Bool) (rest : Bytes) (s : State) : StepResult :=
  s.answer (readFrame fin rsv1 rsv2 rsv3 0x2 rest)

/-- FRAME_CONNECTION_CLOSE: OpCode 0x8 (30_encoding.md R64). -/
def execFrameConnectionClose (fin rsv1 rsv2 rsv3 : Bool) (rest : Bytes) (s : State) : StepResult :=
  s.answer (readFrame fin rsv1 rsv2 rsv3 0x8 rest)

/-- FRAME_PING: OpCode 0x9 (30_encoding.md R64). -/
def execFramePing (fin rsv1 rsv2 rsv3 : Bool) (rest : Bytes) (s : State) : StepResult :=
  s.answer (readFrame fin rsv1 rsv2 rsv3 0x9 rest)

/-- FRAME_PONG: OpCode 0xA (30_encoding.md R64). -/
def execFramePong (fin rsv1 rsv2 rsv3 : Bool) (rest : Bytes) (s : State) : StepResult :=
  s.answer (readFrame fin rsv1 rsv2 rsv3 0xA rest)

/-- FRAME_INVALID_OPCODE: an OpCode outside the six (30_encoding.md R65), read as `InvalidOpCode` once byte 1 is there
(40_header.md R86, R87). -/
def execFrameInvalidOpcode (fin rsv1 rsv2 rsv3 : Bool) (opCode : BitVec 4) (rest : Bytes) (s : State) : StepResult :=
  s.answer (readFrame fin rsv1 rsv2 rsv3 opCode rest)

/-- LEN7: LengthField 0 to 125 is the literal payload size (30_encoding.md R58). -/
def execLen7 (byte0 : Byte) (isMasked : Bool) (lf : BitVec 7) (rest : Bytes) (s : State) : StepResult :=
  s.answer (readLengthForm byte0 isMasked lf rest)

/-- LEN16: LengthField 126, the next 2 bytes are the size (30_encoding.md R59). -/
def execLen16 (byte0 : Byte) (isMasked : Bool) (rest : Bytes) (s : State) : StepResult :=
  s.answer (readLengthForm byte0 isMasked 126 rest)

/-- LEN64: LengthField 127, the next 8 bytes are the size (30_encoding.md R59). -/
def execLen64 (byte0 : Byte) (isMasked : Bool) (rest : Bytes) (s : State) : StepResult :=
  s.answer (readLengthForm byte0 isMasked 127 rest)

end Sys2Proof.Machine
end

