-- ==== Sys2Proof/Machine/Dispatch.lean ====
section
/-! DEFINITION. Machine/Dispatch.lean: each operation to its meaning, one arm per constructor. -/
namespace Sys2Proof.Machine

/-- Perform one operation. -/
def exec (i : Instr) (s : State) : Host.Outcome State Fault Refusal :=
  match i with
  | .hdrDecode bytes => Sys2Proof.Machine.execHdrDecode bytes s
  | .hdrEncode h cap => Sys2Proof.Machine.execHdrEncode h cap s
  | .hdrSize ps m => Sys2Proof.Machine.execHdrSize ps m s
  | .maskApply k data => Sys2Proof.Machine.execMaskApply k data s
  | .csDecode data => Sys2Proof.Machine.execCsDecode data s
  | .csEncode code cap => Sys2Proof.Machine.execCsEncode code cap s
  | .csClassify code => Sys2Proof.Machine.execCsClassify code s
  | .csNamedProtocol code => Sys2Proof.Machine.execCsNamedProtocol code s
  | .csNamedIana code => Sys2Proof.Machine.execCsNamedIana code s
  | .decInit d => Sys2Proof.Machine.execDecInit d s
  | .decFeed d chunk => Sys2Proof.Machine.execDecFeed d chunk s
  | .frameContinuation f r1 r2 r3 rest => Sys2Proof.Machine.execFrameContinuation f r1 r2 r3 rest s
  | .frameText f r1 r2 r3 rest => Sys2Proof.Machine.execFrameText f r1 r2 r3 rest s
  | .frameBinary f r1 r2 r3 rest => Sys2Proof.Machine.execFrameBinary f r1 r2 r3 rest s
  | .frameConnectionClose f r1 r2 r3 rest => Sys2Proof.Machine.execFrameConnectionClose f r1 r2 r3 rest s
  | .framePing f r1 r2 r3 rest => Sys2Proof.Machine.execFramePing f r1 r2 r3 rest s
  | .framePong f r1 r2 r3 rest => Sys2Proof.Machine.execFramePong f r1 r2 r3 rest s
  | .frameInvalidOpcode f r1 r2 r3 op rest => Sys2Proof.Machine.execFrameInvalidOpcode f r1 r2 r3 op rest s
  | .len7 b0 m lf rest => Sys2Proof.Machine.execLen7 b0 m lf rest s
  | .len16 b0 m rest => Sys2Proof.Machine.execLen16 b0 m rest s
  | .len64 b0 m rest => Sys2Proof.Machine.execLen64 b0 m rest s

end Sys2Proof.Machine
end

