-- ==== Sys2Proof/Machine/Issue.lean ====
section
/-! DEFINITION. Machine/Issue.lean: performing a request record: its operation, or the Fault of a reserved command byte. -/
namespace Sys2Proof.Machine

/-- Perform an accepted request: its operation, or `Fault(BAD_COMMAND)` where it has none (30_encoding.md R71). -/
def runRequest (r : Request) (s : State) : StepResult :=
  match decodeRequest r with
  | .ok i => exec i s
  | .error (.badCommand _) => .next (s.raise .badCommand)

end Sys2Proof.Machine
end

