-- ==== Sys2Proof/Machine/Step.lean ====
section
/-! DEFINITION. Machine/Step.lean: one step takes the host's next input. -/
namespace Sys2Proof.Machine

/-- One step: the next input in the host's order (20_memory.md R48). No input, nothing happens (log entry 6). Block reset
is taken always; a request is taken only while `FAULT = 0`, before it is decoded (60_exceptions.md R169, R173). -/
def step (s : State) : Host.Outcome State Fault Refusal :=
  match s.inputs with
  | [] => .next s
  | .blockReset :: rest => .next (s.blockReset rest)
  | .request r :: rest => s.whenLive (runRequest r (s.accept r rest))

/-- `s` with the table word's request as the host's next input. -/
def State.withFetchWord (s : State) (nbits w : Nat) : State :=
  { s with inputs := .request (tableRequest nbits w) :: s.inputs }

end Sys2Proof.Machine
end

