-- ==== Sys2Proof/Safety.lean ====
section
/-! DEFINITION. Safety.lean: the terms claims are stated in: well-formed records (10_state.md R23, R24), the invariant of
the block (R26 to R33, 60_exceptions.md R170), runs and their ends (70_reset_and_hazards.md R199, R200), and counts that
fit their ports (92_eei_decisions.md D20). -/
namespace Sys2Proof

/-- A well-formed Header (10_state.md R23). -/
structure Header.WellFormed (h : Header) : Prop where
  opcode_valid : validOpcode h.opCode = true
  unmasked_key_zero : h.isMasked = false → h.mask = MaskKey.zero
  size_lt : h.payloadSize.toNat < 2 ^ 63

namespace Machine

/-- A Frame as the Decoder emits it: `len(payload) = header.payloadSize`, header well-formed (10_state.md R24, R23). -/
structure Frame.WellFormed (f : Frame) : Prop where
  header_wf : f.header.WellFormed
  payload_length : f.payload.length = f.header.payloadSize.toNat

/-- What always holds of an instance between operations: R26 and R30 (a header exactly in `AwaitingPayload`), R23 (it is
well-formed), R28, R31, R32 and R33 of 10_state.md. -/
structure DecoderState.Inv (cap : Option Nat) (st : DecoderState) : Prop where
  header_iff : st.currentHeader.isSome = true ↔ st.status = .awaitingPayload
  header_wf : ∀ h, st.currentHeader = some h → h.WellFormed
  pending_header : st.status = .awaitingHeader → hdrDecode st.pending = .incomplete ∧ st.pending.length ≤ 13
  pending_payload : ∀ h, st.currentHeader = some h → st.pending.length < h.payloadSize.toNat
  errored_empty : st.status = .errored → st.pending = []
  pending_fits : fitsCap cap st.pending.length = true

/-- An instance that has a header to read when it awaits a payload: all that DEC_FEED needs of it (10_state.md R26). -/
def DecoderState.readable (st : DecoderState) : Bool := st.status != .awaitingPayload || st.currentHeader.isSome

/-- Is this the response of a contract violation? -/
def Response.isFault : Response → Bool
  | .fault _ => true
  | _ => false

/-- The frames a response delivers. -/
def Response.frames : Response → List Frame
  | .decFeed _ fs _ => fs
  | _ => []

/-- The `parseError` bit of a response. -/
def Response.parseError : Response → Bool
  | .decFeed e _ _ => e
  | _ => false

/-- The `numExtra` count of a response. -/
def Response.numExtra : Response → Nat
  | .decFeed _ _ n => n
  | _ => 0

/-- What always holds of a response: emitted frames and decoded headers are well-formed, counts are within the widths of
30_encoding.md R76 to R81, and a fault names a cause. -/
def Response.WellFormed : Response → Prop
  | .hdrDecode (.success h n) => h.WellFormed ∧ n = encSize h.payloadSize h.isMasked ∧ 2 ≤ n ∧ n ≤ 14
  | .hdrDecode _ => True
  | .hdrEncode out n => out.length = n ∧ 2 ≤ n ∧ n ≤ 14
  | .hdrSize n => n ∈ [2, 4, 6, 8, 10, 14]
  | .maskApply _ => True
  | .csDecode _ => True
  | .csEncode out n => out.length = n ∧ (n = 0 ∨ n = 2)
  | .csClassify _ => True
  | .csNamedProtocol hit name => hit = false → name = 0
  | .csNamedIana hit name => hit = false → name = 0
  | .decInit => True
  | .decFeed _ fs _ => ∀ f ∈ fs, f.WellFormed
  | .fault c => c ≠ .none

/-- What always holds of the block between steps. -/
structure State.Inv (s : State) : Prop where
  decoders_inv : ∀ st ∈ s.decoders, st.Inv s.pendingCap
  responses_wf : ∀ r ∈ s.responses, r.WellFormed
  /-- Each request performed has had its response (30_encoding.md R69). -/
  one_response_each : s.issued.length = s.responses.length
  /-- With `FAULT = 0` no response was a fault; otherwise the last one, and only it, was the fault `FAULT` holds
  (60_exceptions.md R170, R173, R177). -/
  fault_recorded : (s.fault = .none ∧ ∀ r ∈ s.responses, r.isFault = false) ∨
    (s.fault ≠ .none ∧ ∃ rs, s.responses = rs ++ [.fault s.fault] ∧ ∀ r ∈ rs, r.isFault = false)

/-- The list of a run's observation: its requests paired with their responses. The rest of the observation, the final
state of every instance and of `FAULT`, is in `decoders` and `fault` (70_reset_and_hazards.md R199). -/
def State.observation (s : State) : List (Request × Response) := s.issued.zip s.responses

/-- Has the host issued the last request of this run? No request is to come before the next block reset, which begins
another run (70_reset_and_hazards.md R199). -/
def State.lastRequestIssued (s : State) : Bool :=
  match s.inputs with
  | [] => true
  | .blockReset :: _ => true
  | .request _ :: _ => false

/-- A run ends normally when the host has issued its last request, that request has returned `ok`, and `FAULT = 0`
(70_reset_and_hazards.md R200). -/
def State.endsNormally (s : State) : Bool :=
  s.lastRequestIssued && s.fault == .none &&
    (match s.responses.getLast? with
     | some r => !r.isFault
     | none => false)

/-- The counts a request carries. -/
def requestCounts : Request → List Nat
  | .command _ ops => [ops.s.length, ops.cap, ops.data.length, ops.chunk.length]
  | .headerByte0 _ rest => [rest.length + 1]
  | .headerByte1 _ _ rest => [rest.length + 2]

/-- The counts a response carries. -/
def responseCounts : Response → List Nat
  | .maskApply data => [data.length]
  | .decFeed _ fs n => n :: fs.length :: fs.map (fun f => f.payload.length)
  | _ => []

/-- Do all counts of the run so far fit in `LEN_WIDTH` bits? Hardware is as the model only while they do
(92_eei_decisions.md D20, log entry 14). -/
def State.countsFit (s : State) : Bool :=
  match s.lenWidth with
  | none => true
  | some w => (s.issued.flatMap requestCounts ++ s.responses.flatMap responseCounts).all (fun n => decide (n < 2 ^ w))

/-- While `FAULT = 0`, operation `i` completes with response `r` and changes nothing else. -/
def Answers (i : Instr) (r : Response) : Prop :=
  ∀ s : State, s.fault = .none → exec i s = .next { s with responses := s.responses ++ [r] }

/-- While `FAULT = 0`, operation `i` raises `Fault(cause)`: `FAULT` takes the cause, the response is `fault(cause)`, and
nothing else changes (60_exceptions.md R170). -/
def Raises (i : Instr) (cause : FaultCause) : Prop :=
  ∀ s : State, s.fault = .none →
    exec i s = .next { s with fault := cause, responses := s.responses ++ [.fault cause] }

/-- The Header with the fields byte 0 holds (30_encoding.md R56) and these others. -/
def byte0Header (b0 : Byte) (isMasked : Bool) (payloadSize : Nat) (mask : MaskKey) : Header :=
  { fin := finBit b0, rsv1 := rsv1Bit b0, rsv2 := rsv2Bit b0, rsv3 := rsv3Bit b0,
    opCode := BitVec.ofNat 4 (b0.toNat % 16), isMasked := isMasked,
    payloadSize := BitVec.ofNat 64 payloadSize, mask := mask }

/-- Does operation `i` name Decoder instance `d`? -/
def OnDecoder (i : Instr) (d : Nat) : Prop := i = .decInit d ∨ ∃ chunk, i = .decFeed d chunk

/-- The next state of a step, if there is one. -/
def nextState? (o : StepResult) : Option State :=
  match o with
  | .next s => some s
  | .fault _ => none
  | .refused _ => none

/-- DEC_FEED of each chunk in turn on instance `d`. -/
def feedAll (d : Nat) : List Bytes → State → Option State
  | [], s => some s
  | c :: cs, s =>
    match exec (.decFeed d c) s with
    | .next t => feedAll d cs t
    | .fault _ => none
    | .refused _ => none

/-- The bytes of a Frame on the wire: its header, then its payload, masked if the header says so (30_encoding.md R55).
The block has no operation that assembles them (00_scope.md R4); the host does. -/
def Frame.wire (f : Frame) : Bytes :=
  headerBytes f.header ++ (if f.header.isMasked then applyMask f.payload f.header.mask else f.payload)

end Machine
end Sys2Proof
end

