-- ==== Sys2Proof/WellFormed.lean ====
section
/-! DEFINITION. WellFormed.lean: the operand checks that the types of Syntax.lean do not make. A command takes every
value of its operand types (its preconditions are checked by the operation, 60_exceptions.md R169). -/
namespace Sys2Proof

/-- FRAME_INVALID_OPCODE holds one of the ten invalid opcodes (R65); LEN7 holds a literal size, 0 to 125 (R58). -/
def Instr.wf : Instr → Bool
  | .hdrDecode _ => true
  | .hdrEncode _ _ => true
  | .hdrSize _ _ => true
  | .maskApply _ _ => true
  | .csDecode _ => true
  | .csEncode _ _ => true
  | .csClassify _ => true
  | .csNamedProtocol _ => true
  | .csNamedIana _ => true
  | .decInit _ => true
  | .decFeed _ _ => true
  | .frameContinuation _ _ _ _ _ => true
  | .frameText _ _ _ _ _ => true
  | .frameBinary _ _ _ _ _ => true
  | .frameConnectionClose _ _ _ _ _ => true
  | .framePing _ _ _ _ _ => true
  | .framePong _ _ _ _ _ => true
  | .frameInvalidOpcode _ _ _ _ op _ => !validOpcode op
  | .len7 _ _ lf _ => decide (lf.toNat ≤ 125)
  | .len16 _ _ _ => true
  | .len64 _ _ _ => true

end Sys2Proof
end

