-- ==== Sys2Proof/Certificates/Slice0/Obligations.lean ====
section
/-! DEFINITION. Certificates/Slice0/Obligations.lean: the statements for the provers, in the order of OBLIGATIONS.json. -/

open Sys2Proof Sys2Proof.Machine

/-! ### Requests and steps -/

/-- Encoding loses no bit of an operation: 30_encoding.md R56, R57, R64, R65, R70. -/
def Obligations.EncodedOperationDecodesToItself : Prop :=
  ∀ i : Instr, i.wf = true → decodeRequest (encode i) = .ok i

/-- What is decoded is well-formed, and from the two header-byte spaces no bit is lost: 30_encoding.md R56, R57, R67. -/
def Obligations.DecodingKeepsEveryHeaderByte : Prop :=
  (∀ r i, decodeRequest r = .ok i → i.wf = true) ∧
  (∀ b rest, encode (decodeByte0 b rest) = .headerByte0 b rest) ∧
  (∀ b0 b1 rest, encode (decodeByte1 b0 b1 rest) = .headerByte1 b0 b1 rest)

/-- Sample words of each opcode space: 30_encoding.md R56 to R59, R64, R65, R70. The record of operand ports and the two
header-byte forms of a request are the model's choice (log entries 3 and 4); the bytes are the spec's. -/
def Obligations.SampleWordsDecodeToTheirOperations : Prop :=
  decodeRequest (.command 0x10 { Operands.idle with mask := ⟨1, 2, 3, 4⟩, data := [0xFF] })
      = .ok (.maskApply ⟨1, 2, 3, 4⟩ [0xFF]) ∧
  decodeRequest (.command 0x31 { Operands.idle with d := 2, chunk := [0x89, 0x00] }) = .ok (.decFeed 2 [0x89, 0x00]) ∧
  decodeRequest (.headerByte0 0x81 [0x05]) = .ok (.frameText true false false false [0x05]) ∧
  decodeRequest (.headerByte0 0x5B []) = .ok (.frameInvalidOpcode false true false true 0xB []) ∧
  decodeRequest (.headerByte1 0x82 0xFE [0x00]) = .ok (.len16 0x82 true [0x00]) ∧
  decodeRequest (.headerByte1 0x82 0x7D []) = .ok (.len7 0x82 false 125 [])

/-- 30_encoding.md R69, 20_memory.md R48: a step performs the operation the host's next request decodes to. -/
def Obligations.StepPerformsTheDecodedOperation : Prop :=
  ∀ (s : State) (r : Request) (rest : List HostInput) (i : Instr),
    s.fault = .none → s.inputs = .request r :: rest → decodeRequest r = .ok i →
    step s = exec i { s with inputs := rest, issued := s.issued ++ [r] }

/-- 30_encoding.md R71: a reserved command byte raises BAD_COMMAND, an instance index out of range BAD_INSTANCE, and
nothing else happens. -/
def Obligations.ReservedCommandOrInstanceFaults : Prop :=
  (∀ (s : State) (cmd : Byte) (ops : Operands) (rest : List HostInput),
    s.fault = .none → s.inputs = .request (.command cmd ops) :: rest →
    cmd.toNat ∉ [0x01, 0x02, 0x03, 0x10, 0x20, 0x21, 0x22, 0x23, 0x24, 0x30, 0x31] →
    step s = .next { s with inputs := rest, issued := s.issued ++ [.command cmd ops], fault := .badCommand,
                            responses := s.responses ++ [.fault .badCommand] }) ∧
  (∀ (s : State) (d : Nat) (i : Instr), s.fault = .none → s.decoders.length ≤ d → OnDecoder i d →
    exec i s = .next { s with fault := .badInstance, responses := s.responses ++ [.fault .badInstance] })

/-- 60_exceptions.md R173: while `FAULT ≠ 0` no operation completes and the run has not ended normally; block reset is
still taken, and clears it. -/
def Obligations.FaultedBlockIsQuiescent : Prop :=
  ∀ s : State, s.fault ≠ .none →
    (∀ i, exec i s = .fault (.quiescent s.fault)) ∧
    (∀ r rest, s.inputs = .request r :: rest → step s = .fault (.quiescent s.fault)) ∧
    (∀ rest, s.inputs = .blockReset :: rest → ∃ t, step s = .next t ∧ t.fault = .none) ∧
    s.endsNormally = false

/-- 70_reset_and_hazards.md R185 with 10_state.md R37: the reset state has every instance and `FAULT` at their reset
values, whatever the parameters, and block reset puts them there from any state; the parameters stay. -/
def Obligations.BlockResetRestoresResetValues : Prop :=
  (∀ c : Config, (State.resetOf c).fault = .none ∧ (State.resetOf c).config = c ∧
    ∀ d, d < c.numDecoders →
      (State.resetOf c).decoders[d]? = some { status := .awaitingHeader, pending := [], currentHeader := none }) ∧
  (∀ (s : State) (rest : List HostInput), s.inputs = .blockReset :: rest →
    ∃ t, step s = .next t ∧ t.fault = .none ∧ t.config = s.config ∧
      ∀ d, d < s.decoders.length →
        t.decoders[d]? = some { status := .awaitingHeader, pending := [], currentHeader := none })

/-! ### The Header unit -/

/-- 40_header.md R86, R87. -/
def Obligations.ShortInputThenOpcodeDecide : Prop :=
  (∀ bs : Bytes, bs.length < 2 → Answers (.hdrDecode bs) (.hdrDecode .incomplete)) ∧
  (∀ (b0 b1 : Byte) (rest : Bytes), b0.toNat % 16 ∉ [0, 1, 2, 8, 9, 10] →
    Answers (.hdrDecode (b0 :: b1 :: rest)) (.hdrDecode .invalidOpCode))

/-- 30_encoding.md R58: LEN7, and HDR_DECODE of the same unmasked bytes; with a key, R60 and 40_header.md R92. That LEN7
is an operation is the model's choice (log entry 4). -/
def Obligations.SevenBitLengthIsLiteralSize : Prop :=
  ∀ (b0 : Byte) (lf : BitVec 7) (rest : Bytes), b0.toNat % 16 ∈ [0, 1, 2, 8, 9, 10] → lf.toNat ≤ 125 →
    Answers (.len7 b0 false lf rest) (.hdrDecode (.success (byte0Header b0 false lf.toNat ⟨0, 0, 0, 0⟩) 2)) ∧
    Answers (.hdrDecode (b0 :: BitVec.ofNat 8 lf.toNat :: rest))
      (.hdrDecode (.success (byte0Header b0 false lf.toNat ⟨0, 0, 0, 0⟩) 2)) ∧
    (rest.length < 4 → Answers (.len7 b0 true lf rest) (.hdrDecode .incomplete)) ∧
    (∀ k0 k1 k2 k3 tail, rest = k0 :: k1 :: k2 :: k3 :: tail →
      Answers (.len7 b0 true lf rest) (.hdrDecode (.success (byte0Header b0 true lf.toNat ⟨k0, k1, k2, k3⟩) 6)))

/-- 40_header.md R88 and 30_encoding.md R59 (LengthField 126): LEN16, masked or not (R60, R92). That LEN16 is an operation
is the model's choice (log entry 4). -/
def Obligations.SixteenBitLengthIsReadAndChecked : Prop :=
  ∀ (b0 : Byte) (m : Bool) (rest : Bytes), b0.toNat % 16 ∈ [0, 1, 2, 8, 9, 10] →
    (rest.length < 2 → Answers (.len16 b0 m rest) (.hdrDecode .incomplete)) ∧
    (∀ x y tail, rest = x :: y :: tail → x.toNat * 256 + y.toNat < 126 →
      Answers (.len16 b0 m rest) (.hdrDecode .payloadSizeInflatedEncoding)) ∧
    (∀ x y tail, rest = x :: y :: tail → 126 ≤ x.toNat * 256 + y.toNat →
      (m = false → Answers (.len16 b0 m rest)
        (.hdrDecode (.success (byte0Header b0 false (x.toNat * 256 + y.toNat) ⟨0, 0, 0, 0⟩) 4))) ∧
      (m = true → tail.length < 4 → Answers (.len16 b0 m rest) (.hdrDecode .incomplete)) ∧
      (∀ k0 k1 k2 k3 tl, m = true → tail = k0 :: k1 :: k2 :: k3 :: tl → Answers (.len16 b0 m rest)
        (.hdrDecode (.success (byte0Header b0 true (x.toNat * 256 + y.toNat) ⟨k0, k1, k2, k3⟩) 8))))

/-- 40_header.md R89, R90, R91 and 30_encoding.md R59 (LengthField 127): LEN64, masked or not (R60, R92). `v` is the field
as a number, most significant byte first. That LEN64 is an operation is the model's choice (log entry 4). -/
def Obligations.SixtyFourBitLengthIsReadAndChecked : Prop :=
  ∀ (b0 : Byte) (m : Bool) (rest : Bytes), b0.toNat % 16 ∈ [0, 1, 2, 8, 9, 10] →
    (rest.length < 8 → Answers (.len64 b0 m rest) (.hdrDecode .incomplete)) ∧
    (∀ x0 x1 x2 x3 x4 x5 x6 x7 tail v, rest = x0 :: x1 :: x2 :: x3 :: x4 :: x5 :: x6 :: x7 :: tail →
      v = x0.toNat * 2 ^ 56 + x1.toNat * 2 ^ 48 + x2.toNat * 2 ^ 40 + x3.toNat * 2 ^ 32 + x4.toNat * 2 ^ 24
        + x5.toNat * 2 ^ 16 + x6.toNat * 2 ^ 8 + x7.toNat →
      (2 ^ 63 ≤ v → Answers (.len64 b0 m rest) (.hdrDecode .payloadSizeEighthByteMSBNotZero)) ∧
      (v < 65536 → Answers (.len64 b0 m rest) (.hdrDecode .payloadSizeInflatedEncoding)) ∧
      (65536 ≤ v → v < 2 ^ 63 →
        (m = false → Answers (.len64 b0 m rest)
          (.hdrDecode (.success (byte0Header b0 false v ⟨0, 0, 0, 0⟩) 10))) ∧
        (m = true → tail.length < 4 → Answers (.len64 b0 m rest) (.hdrDecode .incomplete)) ∧
        (∀ k0 k1 k2 k3 tl, m = true → tail = k0 :: k1 :: k2 :: k3 :: tl → Answers (.len64 b0 m rest)
          (.hdrDecode (.success (byte0Header b0 true v ⟨k0, k1, k2, k3⟩) 14)))))

/-- The rows of the two wire spaces mean what HDR_DECODE answers on the same bytes (log entry 4): from any byte 0, and
from any bytes 0 and 1. -/
def Obligations.WireRowsAnswerAsHdrDecode : Prop :=
  (∀ (b0 : Byte) (rest : Bytes) (s : State), exec (decodeByte0 b0 rest) s = exec (.hdrDecode (b0 :: rest)) s) ∧
  (∀ (b0 b1 : Byte) (rest : Bytes) (s : State),
    exec (decodeByte1 b0 b1 rest) s = exec (.hdrDecode (b0 :: b1 :: rest)) s)

/-- 30_encoding.md R64 and 40_header.md R95: each of the six opcode rows is accepted, its code and flags are copied, and a
literal payload size completes the header. -/
def Obligations.ValidOpcodeRowsAreAcceptedAndCopied : Prop :=
  ∀ p ∈ [(Instr.frameContinuation, 0x0), (Instr.frameText, 0x1), (Instr.frameBinary, 0x2),
         (Instr.frameConnectionClose, 0x8), (Instr.framePing, 0x9), (Instr.framePong, 0xA)],
  ∀ (fin r1 r2 r3 : Bool) (rest : Bytes),
    ∃ o, Answers (p.1 fin r1 r2 r3 rest) (.hdrDecode o) ∧ o ≠ .invalidOpCode ∧
      (∀ h n, o = .success h n →
        h.fin = fin ∧ h.rsv1 = r1 ∧ h.rsv2 = r2 ∧ h.rsv3 = r3 ∧ h.opCode = BitVec.ofNat 4 p.2) ∧
      (∀ b1 tail, rest = b1 :: tail → b1.toNat ≤ 125 →
        o = .success { fin := fin, rsv1 := r1, rsv2 := r2, rsv3 := r3, opCode := BitVec.ofNat 4 p.2, isMasked := false,
                       payloadSize := BitVec.ofNat 64 b1.toNat, mask := ⟨0, 0, 0, 0⟩ } 2)

/-- 30_encoding.md R65 with 40_header.md R86, R87: FRAME_INVALID_OPCODE. -/
def Obligations.InvalidOpcodeRowIsReported : Prop :=
  ∀ (fin r1 r2 r3 : Bool) (op : BitVec 4) (rest : Bytes), op.toNat ∈ [3, 4, 5, 6, 7, 11, 12, 13, 14, 15] →
    Answers (.frameInvalidOpcode fin r1 r2 r3 op rest)
      (.hdrDecode (if rest = [] then .incomplete else .invalidOpCode))

/-- 40_header.md R106. -/
def Obligations.HdrDecodeIsStableUnderExtension : Prop :=
  ∀ bs t : Bytes,
    (∀ h n, hdrDecode bs = .success h n → hdrDecode (bs ++ t) = .success h n) ∧
    (∀ e ∈ [HdrOutcome.invalidOpCode, .payloadSizeInflatedEncoding, .payloadSizeEighthByteMSBNotZero],
      hdrDecode bs = e → hdrDecode (bs ++ t) = e) ∧
    (hdrDecode (bs ++ t) = .incomplete → hdrDecode bs = .incomplete)

/-- 40_header.md R107, R108: HDR_ENCODE then HDR_DECODE gives the Header back, and HDR_SIZE is what it consumes. -/
def Obligations.HeaderRoundTrip : Prop :=
  ∀ (h : Header) (cap : Nat) (t : Bytes), h.WellFormed → encSize h.payloadSize h.isMasked ≤ cap →
    ∃ out n, Answers (.hdrEncode h cap) (.hdrEncode out n) ∧ out.length = n ∧
      Answers (.hdrDecode (out ++ t)) (.hdrDecode (.success h n)) ∧
      Answers (.hdrSize h.payloadSize h.isMasked) (.hdrSize n)

/-- 10_state.md R23, 40_header.md R94, 30_encoding.md R66: what HDR_DECODE accepts is well-formed and is the one minimal
encoding, the bytes HDR_ENCODE writes. -/
def Obligations.DecodedHeaderReencodesToItsBytes : Prop :=
  ∀ (bs : Bytes) (h : Header) (n : Nat), hdrDecode bs = .success h n →
    Answers (.hdrDecode bs) (.hdrDecode (.success h n)) ∧ h.WellFormed ∧
    n = encSize h.payloadSize h.isMasked ∧ n ≤ bs.length ∧
    Answers (.hdrEncode h n) (.hdrEncode (bs.take n) n)

/-- 40_header.md R97, R98 with 30_encoding.md R56, R57: the bytes HDR_ENCODE writes, in the minimal length form, the
unreadable sizes as they are (R99). -/
def Obligations.HdrEncodeWritesTheMinimalLayout : Prop :=
  ∀ (h : Header) (cap : Nat), h.opCode.toNat ∈ [0, 1, 2, 8, 9, 10] → encSize h.payloadSize h.isMasked ≤ cap →
    ∃ b0 b1 ext, ∃ out : Bytes,
      out = b0 :: b1 :: (ext ++ (if h.isMasked then [h.mask.k0, h.mask.k1, h.mask.k2, h.mask.k3] else [])) ∧
      Answers (.hdrEncode h cap) (.hdrEncode out out.length) ∧
      out.length = encSize h.payloadSize h.isMasked ∧
      b0.toNat = 128 * h.fin.toNat + 64 * h.rsv1.toNat + 32 * h.rsv2.toNat + 16 * h.rsv3.toNat + h.opCode.toNat ∧
      (h.payloadSize.toNat ≤ 125 → ext = [] ∧ b1.toNat = 128 * h.isMasked.toNat + h.payloadSize.toNat) ∧
      (126 ≤ h.payloadSize.toNat → h.payloadSize.toNat ≤ 65535 →
        b1.toNat = 128 * h.isMasked.toNat + 126 ∧
        ∃ x y : Byte, ext = [x, y] ∧ x.toNat * 256 + y.toNat = h.payloadSize.toNat) ∧
      (65536 ≤ h.payloadSize.toNat →
        b1.toNat = 128 * h.isMasked.toNat + 127 ∧
        ∃ x0 x1 x2 x3 x4 x5 x6 x7 : Byte, ext = [x0, x1, x2, x3, x4, x5, x6, x7] ∧
          x0.toNat * 2 ^ 56 + x1.toNat * 2 ^ 48 + x2.toNat * 2 ^ 40 + x3.toNat * 2 ^ 32 + x4.toNat * 2 ^ 24
            + x5.toNat * 2 ^ 16 + x6.toNat * 2 ^ 8 + x7.toNat = h.payloadSize.toNat)

/-- The sentence 40_header.md R99 marks as derived (from R90): a payload size of 2^63 or more is encoded without a Fault,
and no decoder reads it back. -/
def Obligations.UnreadableSizesAreEncodedButNotDecoded : Prop :=
  ∀ (h : Header) (cap : Nat) (rest : Bytes), h.opCode.toNat ∈ [0, 1, 2, 8, 9, 10] → 2 ^ 63 ≤ h.payloadSize.toNat →
    14 ≤ cap →
    ∃ out, Answers (.hdrEncode h cap) (.hdrEncode out out.length) ∧
      Answers (.hdrDecode (out ++ rest)) (.hdrDecode .payloadSizeEighthByteMSBNotZero)

/-- 40_header.md R100, R101: the two preconditions of HDR_ENCODE, the opcode tested first. -/
def Obligations.HdrEncodeFaultsOnBadOpcodeThenSmallDestination : Prop :=
  ∀ (h : Header) (cap : Nat),
    (h.opCode.toNat ∉ [0, 1, 2, 8, 9, 10] → Raises (.hdrEncode h cap) .hdrBadOpcode) ∧
    (h.opCode.toNat ∈ [0, 1, 2, 8, 9, 10] → cap < encSize h.payloadSize h.isMasked →
      Raises (.hdrEncode h cap) .hdrDstTooSmall)

/-- 40_header.md R103, R104 by the table of 30_encoding.md R66. -/
def Obligations.HdrSizeIsTheMinimalHeaderSize : Prop :=
  ∀ (ps : BitVec 64) (m : Bool),
    Answers (.hdrSize ps m) (.hdrSize
      (if ps.toNat ≤ 125 then (if m then 6 else 2)
       else if ps.toNat ≤ 65535 then (if m then 8 else 4)
       else (if m then 14 else 10)))

/-! ### The Masking unit -/

/-- 41_masking.md R110, R113. -/
def Obligations.MaskApplyXorsCyclically : Prop :=
  ∀ (k : MaskKey) (data : Bytes), ∃ out, Answers (.maskApply k data) (.maskApply out) ∧
    out.length = data.length ∧
    ∀ i (b : Byte), data[i]? = some b → out[i]? = some (b ^^^ [k.k0, k.k1, k.k2, k.k3].getD (i % 4) 0)

/-- 41_masking.md R115. -/
def Obligations.MaskingTwiceIsTheIdentity : Prop :=
  ∀ (k : MaskKey) (data out : Bytes), Answers (.maskApply k data) (.maskApply out) →
    Answers (.maskApply k out) (.maskApply data)

/-- 41_masking.md R111, 70_reset_and_hazards.md R192: a piece that starts at offset `n` is masked by the key rotated by
`n mod 4`, so masking in pieces that start at multiples of 4 is masking the whole. -/
def Obligations.MaskingInPiecesRotatesTheKey : Prop :=
  ∀ (k0 k1 k2 k3 : Byte) (a b : Bytes),
    applyMask (a ++ b) ⟨k0, k1, k2, k3⟩ = applyMask a ⟨k0, k1, k2, k3⟩ ++
      applyMask b (match a.length % 4 with
        | 0 => ⟨k0, k1, k2, k3⟩
        | 1 => ⟨k1, k2, k3, k0⟩
        | 2 => ⟨k2, k3, k0, k1⟩
        | _ => ⟨k3, k0, k1, k2⟩)

/-! ### The CloseStatus unit -/

/-- 42_closestatus.md R120, R121. -/
def Obligations.CsDecodeReadsTwoBytesOrAnswers1005 : Prop :=
  (∀ data : Bytes, data.length < 2 → Answers (.csDecode data) (.csDecode 1005)) ∧
  (∀ (a b : Byte) (rest : Bytes),
    Answers (.csDecode (a :: b :: rest)) (.csDecode (BitVec.ofNat 16 (a.toNat * 256 + b.toNat))))

/-- 42_closestatus.md R123, R124, R125. -/
def Obligations.CsEncodeWritesTwoBytesOrNothing : Prop :=
  ∀ (code : BitVec 16) (cap : Nat),
    (code = 1005 → Answers (.csEncode code cap) (.csEncode [] 0)) ∧
    (code ≠ 1005 → cap < 2 → Raises (.csEncode code cap) .csDstTooSmall) ∧
    (code ≠ 1005 → 2 ≤ cap → ∃ a b : Byte, Answers (.csEncode code cap) (.csEncode [a, b] 2) ∧
      a.toNat * 256 + b.toNat = code.toNat)

/-- 42_closestatus.md R137. -/
def Obligations.CloseCodeRoundTrip : Prop :=
  ∀ (code : BitVec 16) (cap : Nat), 2 ≤ cap →
    ∃ out written, Answers (.csEncode code cap) (.csEncode out written) ∧ Answers (.csDecode out) (.csDecode code)

/-- 42_closestatus.md R127. -/
def Obligations.ClassifyIsTheRangeOfTheCode : Prop :=
  ∀ code : BitVec 16,
    (code.toNat ≤ 999 → Answers (.csClassify code) (.csClassify .unused)) ∧
    (1000 ≤ code.toNat → code.toNat ≤ 2999 → Answers (.csClassify code) (.csClassify .protocol)) ∧
    (3000 ≤ code.toNat → code.toNat ≤ 3999 → Answers (.csClassify code) (.csClassify .iana)) ∧
    (4000 ≤ code.toNat → code.toNat ≤ 4999 → Answers (.csClassify code) (.csClassify .privateRange)) ∧
    (5000 ≤ code.toNat → Answers (.csClassify code) (.csClassify .outside))

/-- 42_closestatus.md R129 with the name numbers of 30_encoding.md R74. -/
def Obligations.TenProtocolCodesAreNamed : Prop :=
  ∀ code : BitVec 16,
    (∀ name, [1000, 1001, 1002, 1003, 1005, 1007, 1008, 1009, 1010, 1011][name]? = some code.toNat →
      Answers (.csNamedProtocol code) (.csNamedProtocol true (BitVec.ofNat 4 name))) ∧
    (code.toNat ∉ [1000, 1001, 1002, 1003, 1005, 1007, 1008, 1009, 1010, 1011] →
      Answers (.csNamedProtocol code) (.csNamedProtocol false 0))

/-- 42_closestatus.md R131 with the name numbers of 30_encoding.md R75. -/
def Obligations.TwoIanaCodesAreNamed : Prop :=
  ∀ code : BitVec 16,
    (∀ name, [3000, 3003][name]? = some code.toNat →
      Answers (.csNamedIana code) (.csNamedIana true (BitVec.ofNat 1 name))) ∧
    (code.toNat ∉ [3000, 3003] → Answers (.csNamedIana code) (.csNamedIana false 0))

/-- 42_closestatus.md R133: a named code lies in its own range. -/
def Obligations.NamedCodesLieInTheirRange : Prop :=
  ∀ code : BitVec 16,
    (∀ name, Answers (.csNamedProtocol code) (.csNamedProtocol true name) →
      Answers (.csClassify code) (.csClassify .protocol)) ∧
    (∀ name, Answers (.csNamedIana code) (.csNamedIana true name) →
      Answers (.csClassify code) (.csClassify .iana))

/-! ### The Decoder unit -/

/-- 70_reset_and_hazards.md R186: from every state of the instance; BAD_INSTANCE for an index out of range. -/
def Obligations.DecInitRestartsOneInstance : Prop :=
  ∀ (s : State) (d : Nat), s.fault = .none →
    exec (.decInit d) s =
      if d < s.decoders.length then
        .next { s with decoders := s.decoders.set d { status := .awaitingHeader, pending := [], currentHeader := none },
                       responses := s.responses ++ [.decInit] }
      else .next { s with fault := .badInstance, responses := s.responses ++ [.fault .badInstance] }

/-- 43_decoder.md R141. -/
def Obligations.FeedOnErroredReportsAgain : Prop :=
  ∀ (s : State) (d : Nat) (st : DecoderState) (chunk : Bytes),
    s.fault = .none → s.decoders[d]? = some st → st.status = .errored →
    exec (.decFeed d chunk) s = .next { s with responses := s.responses ++ [.decFeed true [] chunk.length] }

/-- 43_decoder.md R143, R155: the first header of the call is not complete. -/
def Obligations.FeedBuffersAnIncompleteHeader : Prop :=
  ∀ (s : State) (d : Nat) (st : DecoderState) (chunk : Bytes),
    s.fault = .none → s.decoders[d]? = some st → st.status = .awaitingHeader →
    hdrDecode (st.pending ++ chunk) = .incomplete →
    exec (.decFeed d chunk) s =
      if fitsCap s.pendingCap (st.pending.length + chunk.length) then
        .next { s with decoders := s.decoders.set d { st with pending := st.pending ++ chunk },
                       responses := s.responses ++ [.decFeed false [] (st.pending.length + chunk.length)] }
      else .next { s with fault := .pendingOverflow, responses := s.responses ++ [.fault .pendingOverflow] }

/-- 43_decoder.md R145: the first header of the call is structurally wrong. -/
def Obligations.FeedFailsOnAStructuralError : Prop :=
  ∀ (s : State) (d : Nat) (st : DecoderState) (chunk : Bytes),
    s.fault = .none → s.decoders[d]? = some st → st.status = .awaitingHeader →
    hdrDecode (st.pending ++ chunk) ∈
      [.invalidOpCode, .payloadSizeInflatedEncoding, .payloadSizeEighthByteMSBNotZero] →
    exec (.decFeed d chunk) s = .next
      { s with decoders := s.decoders.set d { status := .errored, pending := [], currentHeader := none },
               responses := s.responses ++ [.decFeed true [] (st.pending.length + chunk.length)] }

/-- 43_decoder.md R144: after a complete header the call goes on with the bytes that remain, awaiting that header's
payload; if that raises the overflow Fault, the instance keeps its state from before the call (R164). -/
def Obligations.FeedGoesOnAfterAHeader : Prop :=
  ∀ (s : State) (d : Nat) (st : DecoderState) (chunk : Bytes) (h : Header) (n : Nat),
    s.fault = .none → s.decoders[d]? = some st → st.status = .awaitingHeader →
    hdrDecode (st.pending ++ chunk) = .success h n →
    ∃ t, exec (.decFeed d ((st.pending ++ chunk).drop n))
          { s with decoders :=
              s.decoders.set d { status := .awaitingPayload, pending := [], currentHeader := some h } } = .next t ∧
      (t.fault = .none → exec (.decFeed d chunk) s = .next t) ∧
      (t.fault ≠ .none → exec (.decFeed d chunk) s =
        .next { s with fault := .pendingOverflow, responses := s.responses ++ [.fault .pendingOverflow] })

/-- 43_decoder.md R146, R155. -/
def Obligations.FeedBuffersAShortPayload : Prop :=
  ∀ (s : State) (d : Nat) (st : DecoderState) (chunk : Bytes) (h : Header),
    s.fault = .none → s.decoders[d]? = some st → st.status = .awaitingPayload → st.currentHeader = some h →
    st.pending.length + chunk.length < h.payloadSize.toNat →
    exec (.decFeed d chunk) s =
      if fitsCap s.pendingCap (st.pending.length + chunk.length) then
        .next { s with decoders := s.decoders.set d { st with pending := st.pending ++ chunk },
                       responses := s.responses ++ [.decFeed false [] (st.pending.length + chunk.length)] }
      else .next { s with fault := .pendingOverflow, responses := s.responses ++ [.fault .pendingOverflow] }

/-- 43_decoder.md R147: a complete payload is unmasked and emitted as a Frame ahead of whatever the remaining bytes give
an instance that awaits a header; if those raise the overflow Fault, no frame is delivered (R164). -/
def Obligations.FeedEmitsACompletePayload : Prop :=
  ∀ (s : State) (d : Nat) (st : DecoderState) (chunk : Bytes) (h : Header),
    s.fault = .none → s.decoders[d]? = some st → st.status = .awaitingPayload → st.currentHeader = some h →
    h.payloadSize.toNat ≤ st.pending.length + chunk.length →
    ∃ t, exec (.decFeed d ((st.pending ++ chunk).drop h.payloadSize.toNat))
          { s with decoders :=
              s.decoders.set d { status := .awaitingHeader, pending := [], currentHeader := none } } = .next t ∧
      (t.fault ≠ .none → exec (.decFeed d chunk) s =
        .next { s with fault := .pendingOverflow, responses := s.responses ++ [.fault .pendingOverflow] }) ∧
      (t.fault = .none → ∃ e frames n,
        t.responses = s.responses ++ [.decFeed e frames n] ∧
        exec (.decFeed d chunk) s = .next
          { t with responses := s.responses ++
              [.decFeed e ({ header := h,
                             payload := if h.isMasked
                               then applyMask ((st.pending ++ chunk).take h.payloadSize.toNat) h.mask
                               else (st.pending ++ chunk).take h.payloadSize.toNat } :: frames) n] })

/-- 43_decoder.md R164: a DEC_FEED on an instance that can be read always completes. It writes the instance and the
response together, or raises a Fault (PENDING_OVERFLOW, under a finite `PENDING_CAP` only, or BAD_INSTANCE) and changes
nothing else. -/
def Obligations.FeedIsAtomic : Prop :=
  ∀ (s : State) (d : Nat) (chunk : Bytes), s.fault = .none →
    (∀ st, s.decoders[d]? = some st → st.readable = true →
      (∃ st' e frames n, exec (.decFeed d chunk) s = .next
          { s with decoders := s.decoders.set d st', responses := s.responses ++ [.decFeed e frames n] } ∧
        (e = true ↔ st'.status = .errored)) ∨
      (s.pendingCap.isSome = true ∧ exec (.decFeed d chunk) s =
        .next { s with fault := .pendingOverflow, responses := s.responses ++ [.fault .pendingOverflow] })) ∧
    (s.decoders.length ≤ d → exec (.decFeed d chunk) s =
      .next { s with fault := .badInstance, responses := s.responses ++ [.fault .badInstance] })

/-- The sentence 43_decoder.md R150 derives from R143 and R146: after a call with no error, `numExtra = len(pending)`. -/
def Obligations.NumExtraIsTheLengthOfPending : Prop :=
  ∀ (s t : State) (d : Nat) (chunk : Bytes) (frames : List Frame) (n : Nat),
    exec (.decFeed d chunk) s = .next t → t.responses = s.responses ++ [.decFeed false frames n] →
    ∃ st, t.decoders[d]? = some st ∧ n = st.pending.length

/-- 43_decoder.md R156, on every instance in a state the invariant admits (10_state.md R31, R32). -/
def Obligations.EmptyChunkChangesNothing : Prop :=
  ∀ (s : State) (d : Nat) (st : DecoderState),
    s.fault = .none → s.decoders[d]? = some st → st.Inv s.pendingCap → st.status ≠ .errored →
    exec (.decFeed d []) s = .next { s with responses := s.responses ++ [.decFeed false [] st.pending.length] }

/-- The model's choice (log entry 9): an instance in `AwaitingPayload` without a header stops the model. -/
def Obligations.FeedWithoutHeaderStops : Prop :=
  ∀ (s : State) (d : Nat) (st : DecoderState) (chunk : Bytes),
    s.fault = .none → s.decoders[d]? = some st → st.status = .awaitingPayload → st.currentHeader = none →
    exec (.decFeed d chunk) s = .fault (.noCurrentHeader d)

/-- 43_decoder.md R154, fragmentation invariance, from every readable instance state with `PENDING_CAP = ∞`: one call on
the whole, and one call on each chunk. -/
def Obligations.FragmentationInvariance : Prop :=
  ∀ (s : State) (d : Nat) (st : DecoderState) (chunks : List Bytes),
    s.fault = .none → s.pendingCap = none → s.decoders[d]? = some st → st.readable = true → chunks ≠ [] →
    ∃ st1 e frames n st2 rs,
      exec (.decFeed d chunks.flatten) s = .next
        { s with decoders := s.decoders.set d st1, responses := s.responses ++ [.decFeed e frames n] } ∧
      feedAll d chunks s = some { s with decoders := s.decoders.set d st2, responses := s.responses ++ rs } ∧
      rs.length = chunks.length ∧ rs.flatMap Response.frames = frames ∧
      (e = false → (∀ r ∈ rs, r.parseError = false) ∧ st2 = st1 ∧ (rs.map Response.numExtra).getLast? = some n) ∧
      (e = true → (∃ pre post, rs = pre ++ post ∧ post ≠ [] ∧ (∀ r ∈ pre, r.parseError = false) ∧
          (∀ r ∈ post, r.parseError = true)) ∧ st1.status = .errored ∧ st2.status = .errored)

/-- 00_scope.md R3, 43_decoder.md R147, R151, R152: the bytes of any list of well-formed Frames, fed in one call to an
instance at reset, give exactly those Frames, in order. -/
def Obligations.WireFramesAreDeliveredInOneCall : Prop :=
  ∀ (s : State) (d : Nat) (frames : List Frame),
    s.fault = .none → s.decoders[d]? = some { status := .awaitingHeader, pending := [], currentHeader := none } →
    (∀ f ∈ frames, f.WellFormed) →
    exec (.decFeed d (frames.flatMap Frame.wire)) s =
      .next { s with responses := s.responses ++ [.decFeed false frames 0] }

/-- 43_decoder.md R151, R153: however the bytes of a list of well-formed Frames are cut into chunks, the calls deliver
exactly those Frames, in order, with no error, and the instance is at reset again. -/
def Obligations.WireFramesAreDeliveredHoweverSplit : Prop :=
  ∀ (s : State) (d : Nat) (frames : List Frame) (chunks : List Bytes),
    s.fault = .none → s.pendingCap = none →
    s.decoders[d]? = some { status := .awaitingHeader, pending := [], currentHeader := none } →
    (∀ f ∈ frames, f.WellFormed) → chunks.flatten = frames.flatMap Frame.wire →
    ∃ rs, feedAll d chunks s = some { s with responses := s.responses ++ rs } ∧
      rs.flatMap Response.frames = frames ∧ ∀ r ∈ rs, r.parseError = false

/-! ### The whole block -/

/-- 60_exceptions.md R176: only DEC_INIT of that instance or block reset leaves `Errored`, and only block reset clears
`FAULT`. -/
def Obligations.ErroredAndFaultAreLeftOnlyByReset : Prop :=
  ∀ s t : State, step s = .next t →
    (∀ d st st', s.decoders[d]? = some st → st.status = .errored → t.decoders[d]? = some st' →
      st'.status ≠ .errored →
      s.inputs.head? = some .blockReset ∨
        ∃ ops, s.inputs.head? = some (.request (.command 0x30 ops)) ∧ ops.d = d) ∧
    (s.fault ≠ .none → t.fault = .none → s.inputs.head? = some .blockReset)

/-- 60_exceptions.md R170: a request that ends with `FAULT ≠ 0` has changed nothing but `FAULT`, beside the record of the
request and its response `fault(cause)`. -/
def Obligations.FaultsArePrecise : Prop :=
  ∀ (s t : State) (r : Request) (rest : List HostInput),
    s.inputs = .request r :: rest → step s = .next t → t.fault ≠ .none →
    s.fault = .none ∧
    t = { s with inputs := rest, issued := s.issued ++ [r], fault := t.fault,
                 responses := s.responses ++ [.fault t.fault] }

/-- The frame of every operation, 20_memory.md R44, R49 and 30_encoding.md R69: one response; no Decoder instance changes
but the one a DEC operation names; `FAULT` changes only with the response `fault(cause)`. -/
def Obligations.OperationsChangeOnlyTheirInstance : Prop :=
  ∀ (i : Instr) (s t : State), exec i s = .next t →
    t.inputs = s.inputs ∧ t.issued = s.issued ∧ t.config = s.config ∧
    (∀ e, ¬ OnDecoder i e → t.decoders[e]? = s.decoders[e]?) ∧
    ∃ r, t.responses = s.responses ++ [r] ∧
      ((t.fault = .none ∧ r.isFault = false) ∨ (r = .fault t.fault ∧ t.fault ≠ .none ∧ t.decoders = s.decoders))

/-- 20_memory.md R49: operations on different instances commute, except through `FAULT`. -/
def Obligations.OperationsOnDifferentInstancesCommute : Prop :=
  ∀ (s a b : State) (i j : Instr) (d e : Nat), OnDecoder i d → OnDecoder j e → d ≠ e →
    exec i s = .next a → exec j a = .next b → b.fault = .none →
    ∃ ri rj a' b', exec j s = .next a' ∧ exec i a' = .next b' ∧ b'.decoders = b.decoders ∧ b'.fault = .none ∧
      b.responses = s.responses ++ [ri, rj] ∧ b'.responses = s.responses ++ [rj, ri]

/-- The invariant of 10_state.md R26 to R33 and R24, and the record of faults, kept by every step. -/
def Obligations.EveryStepKeepsTheInvariant : Prop :=
  ∀ s t : State, s.Inv → step s = .next t → t.Inv

/-- The invariant holds after block reset, whatever the parameters. -/
def Obligations.InvariantHoldsAtReset : Prop := ∀ c : Config, (State.resetOf c).Inv

/-- 60_exceptions.md R184: an operation never waits. In a state the invariant admits with `FAULT = 0`, every step
completes. -/
def Obligations.EveryStepOfALiveBlockCompletes : Prop :=
  ∀ s : State, s.Inv → s.fault = .none → ∃ t, step s = .next t

/-- 70_reset_and_hazards.md R199, R200, of every step that takes a request: the request gets exactly one response and is
paired with it at the end of the observation; the run is then at a normal end exactly when that was the run's last request
(no request is to come before the next block reset) and its response is no fault; and in that case no Fault was met before
or in this step. That the inputs still to come, block resets among them, stand in the state is the model's choice (log
entries 1 and 7). -/
def Obligations.ANormalEndIsReachedByACompletedRequest : Prop :=
  ∀ (s t : State) (r : Request) (rest : List HostInput),
    s.Inv → s.inputs = .request r :: rest → step s = .next t →
    ∃ a, t.responses = s.responses ++ [a] ∧ t.observation = s.observation ++ [(r, a)] ∧
      (t.endsNormally = true ↔ (∀ q, rest.head? ≠ some (.request q)) ∧ a.isFault = false) ∧
      (t.endsNormally = true → s.fault = .none ∧ t.fault = .none ∧ ∀ x ∈ t.responses, x.isFault = false)
end

