-- ==== Sys2Proof/Laws/Bytes.lean ====
section
/-! SUPPORT. Laws/Bytes.lean: the fields of header bytes 0 and 1 are what was put there, big-endian writing has the
right length, and masking keeps the length. -/
namespace Sys2Proof

@[simp] theorem opCodeField_mkByte0 (f a b c : Bool) (op : BitVec 4) : opCodeField (mkByte0 f a b c op) = op := by
  revert f a b c op; decide

@[simp] theorem finBit_mkByte0 (f a b c : Bool) (op : BitVec 4) : finBit (mkByte0 f a b c op) = f := by
  revert f a b c op; decide

@[simp] theorem rsv1Bit_mkByte0 (f a b c : Bool) (op : BitVec 4) : rsv1Bit (mkByte0 f a b c op) = a := by
  revert f a b c op; decide

@[simp] theorem rsv2Bit_mkByte0 (f a b c : Bool) (op : BitVec 4) : rsv2Bit (mkByte0 f a b c op) = b := by
  revert f a b c op; decide

@[simp] theorem rsv3Bit_mkByte0 (f a b c : Bool) (op : BitVec 4) : rsv3Bit (mkByte0 f a b c op) = c := by
  revert f a b c op; decide

@[simp] theorem maskBit_mkByte1 (m : Bool) (lf : BitVec 7) : maskBit (mkByte1 m lf) = m := by
  revert m lf; decide

@[simp] theorem lengthField_mkByte1 (m : Bool) (lf : BitVec 7) : lengthField (mkByte1 m lf) = lf := by
  revert m lf; decide

/-- Byte 0 is its fields. -/
theorem mkByte0_fields (b : Byte) :
    mkByte0 (finBit b) (rsv1Bit b) (rsv2Bit b) (rsv3Bit b) (opCodeField b) = b := by
  revert b; decide

/-- Byte 1 is its fields. -/
theorem mkByte1_fields (b : Byte) : mkByte1 (maskBit b) (lengthField b) = b := by
  revert b; decide

/-- The six valid opcodes as numbers (30_encoding.md R64). -/
theorem validOpcode_iff (op : BitVec 4) : validOpcode op = true ↔ op.toNat ∈ [0, 1, 2, 8, 9, 10] := by
  revert op; decide

namespace Machine

@[simp] theorem length_memWrite (n v : Nat) : (memWrite n v).length = n := by
  induction n with
  | zero => rfl
  | succ n ih => simp [memWrite, ih]

theorem bigEndian_append_one (s : Bytes) (b : Byte) : bigEndian (s ++ [b]) = bigEndian s * 256 + b.toNat := by
  simp [bigEndian]

@[simp] theorem length_maskFrom (k : MaskKey) (i : Nat) (data : Bytes) : (maskFrom k i data).length = data.length := by
  induction data generalizing i with
  | nil => rfl
  | cons b rest ih => simp [maskFrom, ih]

@[simp] theorem length_applyMask (data : Bytes) (k : MaskKey) : (applyMask data k).length = data.length :=
  length_maskFrom k 0 data

end Machine
end Sys2Proof
end

