-- ==== Sys2Proof/Laws/State.lean ====
section
/-! SUPPORT. Laws/State.lean: what each named update of the state does to each field, and the two tests every operation
begins with. -/
namespace Sys2Proof.Machine

/-! ### One lemma per field and update -/

@[simp] theorem respond_decoders (s : State) (r) : (s.respond r).decoders = s.decoders := rfl
@[simp] theorem respond_fault (s : State) (r) : (s.respond r).fault = s.fault := rfl
@[simp] theorem respond_pendingCap (s : State) (r) : (s.respond r).pendingCap = s.pendingCap := rfl
@[simp] theorem respond_lenWidth (s : State) (r) : (s.respond r).lenWidth = s.lenWidth := rfl
@[simp] theorem respond_inputs (s : State) (r) : (s.respond r).inputs = s.inputs := rfl
@[simp] theorem respond_issued (s : State) (r) : (s.respond r).issued = s.issued := rfl
@[simp] theorem respond_responses (s : State) (r) : (s.respond r).responses = s.responses ++ [r] := rfl

@[simp] theorem raise_decoders (s : State) (c) : (s.raise c).decoders = s.decoders := rfl
@[simp] theorem raise_fault (s : State) (c) : (s.raise c).fault = c := rfl
@[simp] theorem raise_pendingCap (s : State) (c) : (s.raise c).pendingCap = s.pendingCap := rfl
@[simp] theorem raise_lenWidth (s : State) (c) : (s.raise c).lenWidth = s.lenWidth := rfl
@[simp] theorem raise_inputs (s : State) (c) : (s.raise c).inputs = s.inputs := rfl
@[simp] theorem raise_issued (s : State) (c) : (s.raise c).issued = s.issued := rfl
@[simp] theorem raise_responses (s : State) (c) : (s.raise c).responses = s.responses ++ [.fault c] := rfl

@[simp] theorem setDecoder_decoders (s : State) (d st) : (s.setDecoder d st).decoders = s.decoders.set d st := rfl
@[simp] theorem setDecoder_fault (s : State) (d st) : (s.setDecoder d st).fault = s.fault := rfl
@[simp] theorem setDecoder_pendingCap (s : State) (d st) : (s.setDecoder d st).pendingCap = s.pendingCap := rfl
@[simp] theorem setDecoder_lenWidth (s : State) (d st) : (s.setDecoder d st).lenWidth = s.lenWidth := rfl
@[simp] theorem setDecoder_inputs (s : State) (d st) : (s.setDecoder d st).inputs = s.inputs := rfl
@[simp] theorem setDecoder_issued (s : State) (d st) : (s.setDecoder d st).issued = s.issued := rfl
@[simp] theorem setDecoder_responses (s : State) (d st) : (s.setDecoder d st).responses = s.responses := rfl

@[simp] theorem accept_decoders (s : State) (r rest) : (s.accept r rest).decoders = s.decoders := rfl
@[simp] theorem accept_fault (s : State) (r rest) : (s.accept r rest).fault = s.fault := rfl
@[simp] theorem accept_pendingCap (s : State) (r rest) : (s.accept r rest).pendingCap = s.pendingCap := rfl
@[simp] theorem accept_lenWidth (s : State) (r rest) : (s.accept r rest).lenWidth = s.lenWidth := rfl
@[simp] theorem accept_inputs (s : State) (r rest) : (s.accept r rest).inputs = rest := rfl
@[simp] theorem accept_issued (s : State) (r rest) : (s.accept r rest).issued = s.issued ++ [r] := rfl
@[simp] theorem accept_responses (s : State) (r rest) : (s.accept r rest).responses = s.responses := rfl

@[simp] theorem blockReset_fault (s : State) (rest) : (s.blockReset rest).fault = .none := rfl
@[simp] theorem blockReset_pendingCap (s : State) (rest) : (s.blockReset rest).pendingCap = s.pendingCap := rfl
@[simp] theorem blockReset_lenWidth (s : State) (rest) : (s.blockReset rest).lenWidth = s.lenWidth := rfl
@[simp] theorem blockReset_inputs (s : State) (rest) : (s.blockReset rest).inputs = rest := rfl
@[simp] theorem blockReset_issued (s : State) (rest) : (s.blockReset rest).issued = [] := rfl
@[simp] theorem blockReset_responses (s : State) (rest) : (s.blockReset rest).responses = [] := rfl

theorem blockReset_decoders (s : State) (rest) :
    (s.blockReset rest).decoders = List.replicate s.decoders.length DecoderState.initial := rfl

/-- A run has issued its last request exactly when its next input, if any, is no request. -/
theorem lastRequestIssued_iff (s : State) :
    s.lastRequestIssued = true ↔ ∀ q, s.inputs.head? ≠ some (.request q) := by
  unfold State.lastRequestIssued
  split <;> simp [*]

/-! ### The tests every operation begins with -/

theorem whenLive_of_live {s : State} (h : s.fault = .none) (k : StepResult) : s.whenLive k = k := if_pos h

theorem whenLive_of_fault {s : State} (h : s.fault ≠ .none) (k : StepResult) :
    s.whenLive k = .fault (.quiescent s.fault) := if_neg h

/-- What `whenLive` can do when it answers a next state. -/
theorem whenLive_next {s t : State} {k : StepResult} (h : s.whenLive k = .next t) : s.fault = .none ∧ k = .next t := by
  unfold State.whenLive at h
  split at h
  · exact ⟨‹_›, h⟩
  · cases h

theorem answer_of_live {s : State} (h : s.fault = .none) (r : Response) : s.answer r = .next (s.respond r) :=
  whenLive_of_live h _

/-- What `answer` can do when it answers a next state. -/
theorem answer_next {s t : State} {r : Response} (h : s.answer r = .next t) : s.fault = .none ∧ t = s.respond r := by
  obtain ⟨hs, h⟩ := whenLive_next h
  exact ⟨hs, by cases h; rfl⟩

theorem withDecoder_of_live {s : State} {d : Nat} {st : DecoderState} (h : s.fault = .none)
    (hd : s.decoders[d]? = some st) (k : DecoderState → StepResult) : s.withDecoder d k = k st := by
  simp only [State.withDecoder, whenLive_of_live h, hd]

theorem withDecoder_of_out_of_range {s : State} {d : Nat} (h : s.fault = .none) (hd : s.decoders.length ≤ d)
    (k : DecoderState → StepResult) : s.withDecoder d k = .next (s.raise .badInstance) := by
  simp only [State.withDecoder, whenLive_of_live h, List.getElem?_eq_none hd]

/-- What `withDecoder` can do when it answers a next state. -/
theorem withDecoder_next {s t : State} {d : Nat} {k : DecoderState → StepResult} (h : s.withDecoder d k = .next t) :
    s.fault = .none ∧ ((∃ st, s.decoders[d]? = some st ∧ k st = .next t) ∨
      (s.decoders.length ≤ d ∧ t = s.raise .badInstance)) := by
  obtain ⟨hs, h⟩ := whenLive_next h
  refine ⟨hs, ?_⟩
  split at h
  · exact .inl ⟨_, ‹_›, h⟩
  · next hd => exact .inr ⟨List.getElem?_eq_none_iff.mp hd, by cases h; rfl⟩

end Sys2Proof.Machine
end

