-- ==== Sys2Proof/Laws/Feed.lean ====
section
/-! SUPPORT. Laws/Feed.lean: the loop of DEC_FEED: its fuel never runs out, and frames already completed stand in front
of those to come. -/
namespace Sys2Proof.Machine

/-- A header HDR_DECODE accepts is at least 2 bytes and no longer than its input (43_decoder.md R149). -/
theorem hdrDecode_consumed {s : Bytes} {h : Header} {n : Nat} (e : hdrDecode s = .success h n) :
    2 ≤ n ∧ n ≤ s.length := by
  unfold hdrDecode at e
  split at e
  · cases e
  · next hs =>
    dsimp only at e
    split at e
    · cases e
    · split at e <;> try cases e
      next ps off hl =>
      have ho : 2 ≤ off ∧ off ≤ s.length := by
        unfold readLength readLength16 readLength64 at hl
        split at hl
        · cases hl; omega
        · repeat' split at hl
          all_goals first | (cases hl; done) | (cases hl; omega)
      unfold readKey at e
      split at e
      · cases e
      · next hk =>
        split at hk
        · split at hk
          · cases hk
          · cases hk; cases e; omega
        · cases hk; cases e; exact ho

/-- How many more rows of 43_decoder.md R163 the loop can take. -/
def rowsLeft (st : DecoderState) (rest : Bytes) : Nat :=
  rest.length + (if st.status = .awaitingPayload then 1 else 0)

/-- Every row that goes on uses up a row. -/
theorem feedStep_decreases {cap : Option Nat} {st st' : DecoderState} {rest rest' : Bytes} {fs fs' : List Frame}
    (e : feedStep cap st rest fs = .more st' rest' fs') : rowsLeft st' rest' < rowsLeft st rest := by
  unfold feedStep at e
  split at e
  · next hst =>
    split at e <;> try cases e
    next h n hd =>
    have := hdrDecode_consumed hd
    simp [rowsLeft, hst]; omega
  · next hst =>
    split at e
    · cases e
    · split at e
      · cases e
      · cases e
        simp only [rowsLeft, hst, DecoderState.initial, List.length_drop]; simp
  · cases e

/-- More fuel than rows changes nothing. -/
theorem feedLoop_fuel {cap : Option Nat} {st : DecoderState} {rest : Bytes} {fs : List Frame} {m n : Nat}
    (hm : rowsLeft st rest < m) (hn : rowsLeft st rest < n) :
    feedLoop cap m st rest fs = feedLoop cap n st rest fs := by
  induction m generalizing n st rest fs with
  | zero => omega
  | succ m ih =>
    obtain ⟨n, rfl⟩ : ∃ k, n = k + 1 := ⟨n - 1, by omega⟩
    simp only [feedLoop]
    split
    · rfl
    · next h =>
      have := feedStep_decreases h
      exact ih (by omega) (by omega)

/-- The loop with enough fuel, as one function of the instance and the bytes. -/
def feedRun (cap : Option Nat) (st : DecoderState) (rest : Bytes) (fs : List Frame) : FeedEnd :=
  feedLoop cap (rest.length + 2) st rest fs

/-- The loop's equation, with no fuel in it. -/
theorem feedRun_eq (cap : Option Nat) (st : DecoderState) (rest : Bytes) (fs : List Frame) :
    feedRun cap st rest fs =
      match feedStep cap st rest fs with
      | .stop e => e
      | .more st' rest' fs' => feedRun cap st' rest' fs' := by
  have h0 : feedRun cap st rest fs = feedLoop cap (rest.length + 1 + 1) st rest fs := rfl
  rw [h0, feedLoop]
  cases h : feedStep cap st rest fs with
  | stop e => rfl
  | more st' rest' fs' =>
    have hd := feedStep_decreases h
    have h1 : rowsLeft st rest ≤ rest.length + 1 := by simp only [rowsLeft]; split <;> omega
    have h2 : rowsLeft st' rest' ≤ rest'.length + 1 := by simp only [rowsLeft]; split <;> omega
    exact feedLoop_fuel (by omega) (by omega)

/-- DEC_FEED on one instance, by the loop without fuel (43_decoder.md R138). -/
theorem feed_eq (cap : Option Nat) (st : DecoderState) (chunk : Bytes) :
    feed cap st chunk =
      if st.status = .errored then .commit st true [] chunk.length else feedRun cap st (st.pending ++ chunk) [] := rfl

/-- Put frames in front of those a call delivers. -/
def FeedEnd.withFrames (pre : List Frame) : FeedEnd → FeedEnd
  | .commit st e fs n => .commit st e (pre ++ fs) n
  | .overflow => .overflow
  | .noHeader => .noHeader

/-- Put frames in front of those of one row. -/
def FeedStep.withFrames (pre : List Frame) : FeedStep → FeedStep
  | .stop e => .stop (e.withFrames pre)
  | .more st rest fs => .more st rest (pre ++ fs)

theorem feedStep_withFrames (cap : Option Nat) (st : DecoderState) (rest : Bytes) (pre fs : List Frame) :
    feedStep cap st rest (pre ++ fs) = (feedStep cap st rest fs).withFrames pre := by
  unfold feedStep
  split
  · split <;> simp only [FeedStep.withFrames, FeedEnd.withFrames, bufferRest]
    split <;> rfl
  · split
    · rfl
    · split <;> simp only [FeedStep.withFrames, FeedEnd.withFrames, bufferRest, List.append_assoc]
      split <;> rfl
  · rfl

theorem feedLoop_withFrames (cap : Option Nat) (fuel : Nat) (st : DecoderState) (rest : Bytes) (pre fs : List Frame) :
    feedLoop cap fuel st rest (pre ++ fs) = (feedLoop cap fuel st rest fs).withFrames pre := by
  induction fuel generalizing st rest fs with
  | zero => simp only [feedLoop, bufferRest]; split <;> rfl
  | succ n ih =>
    simp only [feedLoop, feedStep_withFrames]
    cases h : feedStep cap st rest fs with
    | stop e => rfl
    | more st' rest' fs' => simp only [FeedStep.withFrames]; exact ih st' rest' fs'

/-- Frames already completed stand in front of those to come (43_decoder.md R151). -/
theorem feedRun_withFrames (cap : Option Nat) (st : DecoderState) (rest : Bytes) (pre : List Frame) :
    feedRun cap st rest pre = (feedRun cap st rest []).withFrames pre := by
  simpa [feedRun] using feedLoop_withFrames cap (rest.length + 2) st rest pre []

end Sys2Proof.Machine
end

