-- ==== Sys2Proof/Laws/PerInstr.lean ====
section
/-! SUPPORT. Laws/PerInstr.lean: statements made for every operation, one lemma per constructor of `Instr`. -/
namespace Sys2Proof.Laws.RowWord

/-- The byte of a request that its row of opcode_table.json matches: the command byte, byte 0 or byte 1 of a header. -/
def rowByte : Request → Byte
  | .command cmd _ => cmd
  | .headerByte0 b _ => b
  | .headerByte1 _ b _ => b

/-- The row of opcode_table.json: its mask, and the ranges its match gives. -/
def row : Instr → Byte × List (Nat × Nat)
  | .hdrDecode _ => (0xFF, [(0x01, 0x01)])
  | .hdrEncode _ _ => (0xFF, [(0x02, 0x02)])
  | .hdrSize _ _ => (0xFF, [(0x03, 0x03)])
  | .maskApply _ _ => (0xFF, [(0x10, 0x10)])
  | .csDecode _ => (0xFF, [(0x20, 0x20)])
  | .csEncode _ _ => (0xFF, [(0x21, 0x21)])
  | .csClassify _ => (0xFF, [(0x22, 0x22)])
  | .csNamedProtocol _ => (0xFF, [(0x23, 0x23)])
  | .csNamedIana _ => (0xFF, [(0x24, 0x24)])
  | .decInit _ => (0xFF, [(0x30, 0x30)])
  | .decFeed _ _ => (0xFF, [(0x31, 0x31)])
  | .frameContinuation _ _ _ _ _ => (0x0F, [(0x00, 0x00)])
  | .frameText _ _ _ _ _ => (0x0F, [(0x01, 0x01)])
  | .frameBinary _ _ _ _ _ => (0x0F, [(0x02, 0x02)])
  | .frameConnectionClose _ _ _ _ _ => (0x0F, [(0x08, 0x08)])
  | .framePing _ _ _ _ _ => (0x0F, [(0x09, 0x09)])
  | .framePong _ _ _ _ _ => (0x0F, [(0x0A, 0x0A)])
  | .frameInvalidOpcode _ _ _ _ _ _ => (0x0F, [(0x03, 0x07), (0x0B, 0x0F)])
  | .len7 _ _ _ _ => (0x7F, [(0x00, 0x7D)])
  | .len16 _ _ _ => (0x7F, [(0x7E, 0x7E)])
  | .len64 _ _ _ => (0x7F, [(0x7F, 0x7F)])

/-- The encoded byte of a well-formed operation lies in its row of the table. -/
def Statement (i : Instr) : Prop :=
  i.wf = true →
    ∃ p ∈ (row i).2, p.1 ≤ (rowByte (encode i) &&& (row i).1).toNat ∧ (rowByte (encode i) &&& (row i).1).toNat ≤ p.2

theorem hdrDecode (s : Bytes) : Statement (.hdrDecode s) := fun _ => ⟨_, List.mem_singleton_self _, by simp only [encode, rowByte, row]; decide⟩
theorem hdrEncode (h : Header) (cap : Nat) : Statement (.hdrEncode h cap) :=
  fun _ => ⟨_, List.mem_singleton_self _, by simp only [encode, rowByte, row]; decide⟩
theorem hdrSize (ps : BitVec 64) (m : Bool) : Statement (.hdrSize ps m) :=
  fun _ => ⟨_, List.mem_singleton_self _, by simp only [encode, rowByte, row]; decide⟩
theorem maskApply (k : MaskKey) (data : Bytes) : Statement (.maskApply k data) :=
  fun _ => ⟨_, List.mem_singleton_self _, by simp only [encode, rowByte, row]; decide⟩
theorem csDecode (data : Bytes) : Statement (.csDecode data) := fun _ => ⟨_, List.mem_singleton_self _, by simp only [encode, rowByte, row]; decide⟩
theorem csEncode (code : BitVec 16) (cap : Nat) : Statement (.csEncode code cap) :=
  fun _ => ⟨_, List.mem_singleton_self _, by simp only [encode, rowByte, row]; decide⟩
theorem csClassify (code : BitVec 16) : Statement (.csClassify code) :=
  fun _ => ⟨_, List.mem_singleton_self _, by simp only [encode, rowByte, row]; decide⟩
theorem csNamedProtocol (code : BitVec 16) : Statement (.csNamedProtocol code) :=
  fun _ => ⟨_, List.mem_singleton_self _, by simp only [encode, rowByte, row]; decide⟩
theorem csNamedIana (code : BitVec 16) : Statement (.csNamedIana code) :=
  fun _ => ⟨_, List.mem_singleton_self _, by simp only [encode, rowByte, row]; decide⟩
theorem decInit (d : Nat) : Statement (.decInit d) := fun _ => ⟨_, List.mem_singleton_self _, by simp only [encode, rowByte, row]; decide⟩
theorem decFeed (d : Nat) (chunk : Bytes) : Statement (.decFeed d chunk) :=
  fun _ => ⟨_, List.mem_singleton_self _, by simp only [encode, rowByte, row]; decide⟩

/-- The low four bits of byte 0 are its opcode. -/
theorem byte0_low (f r1 r2 r3 : Bool) (op : BitVec 4) : (mkByte0 f r1 r2 r3 op &&& 0x0F).toNat = op.toNat := by
  revert f r1 r2 r3 op; decide

/-- The low seven bits of byte 1 are its LengthField. -/
theorem byte1_low (m : Bool) (lf : BitVec 7) : (mkByte1 m lf &&& 0x7F).toNat = lf.toNat := by
  revert m lf; decide

theorem frameContinuation (f r1 r2 r3 : Bool) (rest : Bytes) : Statement (.frameContinuation f r1 r2 r3 rest) :=
  fun _ => ⟨_, List.mem_singleton_self _, by simp only [encode, rowByte, row, byte0_low]; decide⟩
theorem frameText (f r1 r2 r3 : Bool) (rest : Bytes) : Statement (.frameText f r1 r2 r3 rest) :=
  fun _ => ⟨_, List.mem_singleton_self _, by simp only [encode, rowByte, row, byte0_low]; decide⟩
theorem frameBinary (f r1 r2 r3 : Bool) (rest : Bytes) : Statement (.frameBinary f r1 r2 r3 rest) :=
  fun _ => ⟨_, List.mem_singleton_self _, by simp only [encode, rowByte, row, byte0_low]; decide⟩
theorem frameConnectionClose (f r1 r2 r3 : Bool) (rest : Bytes) : Statement (.frameConnectionClose f r1 r2 r3 rest) :=
  fun _ => ⟨_, List.mem_singleton_self _, by simp only [encode, rowByte, row, byte0_low]; decide⟩
theorem framePing (f r1 r2 r3 : Bool) (rest : Bytes) : Statement (.framePing f r1 r2 r3 rest) :=
  fun _ => ⟨_, List.mem_singleton_self _, by simp only [encode, rowByte, row, byte0_low]; decide⟩
theorem framePong (f r1 r2 r3 : Bool) (rest : Bytes) : Statement (.framePong f r1 r2 r3 rest) :=
  fun _ => ⟨_, List.mem_singleton_self _, by simp only [encode, rowByte, row, byte0_low]; decide⟩
theorem frameInvalidOpcode (f r1 r2 r3 : Bool) (op : BitVec 4) (rest : Bytes) :
    Statement (.frameInvalidOpcode f r1 r2 r3 op rest) := by
  intro hw
  simp only [encode, rowByte, row, byte0_low]
  simp only [Instr.wf] at hw
  revert op; decide
theorem len7 (b0 : Byte) (m : Bool) (lf : BitVec 7) (rest : Bytes) : Statement (.len7 b0 m lf rest) := by
  intro hw
  refine ⟨_, List.mem_singleton_self _, ?_⟩
  simp only [encode, rowByte, row, byte1_low]
  exact ⟨Nat.zero_le _, of_decide_eq_true hw⟩
theorem len16 (b0 : Byte) (m : Bool) (rest : Bytes) : Statement (.len16 b0 m rest) :=
  fun _ => ⟨_, List.mem_singleton_self _, by simp only [encode, rowByte, row, byte1_low]; decide⟩
theorem len64 (b0 : Byte) (m : Bool) (rest : Bytes) : Statement (.len64 b0 m rest) :=
  fun _ => ⟨_, List.mem_singleton_self _, by simp only [encode, rowByte, row, byte1_low]; decide⟩

end Sys2Proof.Laws.RowWord
end

