-- ==== Sys2Proof/Tests/Slice0.lean ====
section
/-! SUPPORT. Tests/Slice0.lean: ill-formed operations refused, words written out from the spec's encodings decoded, the
spec's own vectors (95_test_vectors.md, by their ids) run for one operation each, and witnesses for the hypotheses of the
statements. Expected results are the spec's. -/
namespace Sys2Proof.Tests

open Sys2Proof.Machine

/-! ### Helpers -/

/-- The last response after one operation on a block just reset. -/
def replyOf (i : Instr) : Option Response := (nextState? (exec i State.reset)).bind (fun s => s.responses.getLast?)

/-- A block just reset, with instance 0 in this state. -/
def withInstance (st : DecoderState) : State := { State.reset with decoders := State.reset.decoders.set 0 st }

/-- The same with `PENDING_CAP` of `cap` bytes. -/
def capped (cap : Nat) (st : DecoderState) : State := { withInstance st with pendingCap := some cap }

/-- Instance 0 and the last response after one operation. -/
def after (s : State) (i : Instr) : Option (Option DecoderState × Option Response) :=
  (nextState? (exec i s)).map (fun t => (t.decoders[0]?, t.responses.getLast?))

/-- An instance that awaits a header, with these bytes buffered. -/
def buffering (p : Bytes) : DecoderState := { status := .awaitingHeader, pending := p, currentHeader := none }

/-- An instance that awaits the payload of `h`, with these bytes buffered. -/
def paying (h : Header) (p : Bytes) : DecoderState := { status := .awaitingPayload, pending := p, currentHeader := some h }

/-- An instance in `Errored`. -/
def errored : DecoderState := { status := .errored, pending := [], currentHeader := none }

/-- An unmasked Header with `fin = 1` and no RSV bit. -/
def plain (op : BitVec 4) (size : BitVec 64) : Header :=
  { fin := true, rsv1 := false, rsv2 := false, rsv3 := false, opCode := op, isMasked := false, payloadSize := size,
    mask := ⟨0, 0, 0, 0⟩ }

/-- A masked Header with `fin = 1` and no RSV bit. -/
def masked (op : BitVec 4) (size : BitVec 64) (k : MaskKey) : Header :=
  { plain op size with isMasked := true, mask := k }

/-- The header of W2. -/
def helloHeader : Header := masked 1 5 ⟨0x37, 0xFA, 0x21, 0x3D⟩

/-- The frame of W2. -/
def helloFrame : Frame := { header := helloHeader, payload := [0x48, 0x65, 0x6C, 0x6C, 0x6F] }

/-- The wire bytes of W2. -/
def helloWire : Bytes := [0x81, 0x85, 0x37, 0xFA, 0x21, 0x3D, 0x7F, 0x9F, 0x4D, 0x51, 0x58]

/-- A block with a Fault recorded and inputs waiting. -/
def faulted (inputs : List HostInput) : State := { State.reset with fault := .csDstTooSmall, inputs := inputs }

/-! ### Well-formedness: each check refuses an ill-formed operation -/

theorem test_wf_len7_refuses_126 : (Instr.len7 0x81 false 126 []).wf = false := by decide
theorem test_wf_len7_refuses_127 : (Instr.len7 0x81 true 127 []).wf = false := by decide
theorem test_wf_invalid_opcode_refuses_text : (Instr.frameInvalidOpcode true false false false 0x1 []).wf = false := by
  decide
theorem test_wf_invalid_opcode_refuses_pong : (Instr.frameInvalidOpcode true false false false 0xA []).wf = false := by
  decide
theorem test_default_config_valid : Config.default.valid = true := by decide
theorem test_cap_12_refused : ({ numDecoders := 1, pendingCap := some 12, lenWidth := none } : Config).valid = false := by
  decide
theorem test_no_instance_refused : ({ numDecoders := 0, pendingCap := none, lenWidth := none } : Config).valid = false := by
  decide

/-! ### Decoding: words of the spec's encodings, for every constructor -/

/-- 30_encoding.md R70, the eleven command bytes. -/
theorem test_decode_commands (ops : Operands) :
    decodeRequest (.command 0b00000001 ops) = .ok (.hdrDecode ops.s) ∧
    decodeRequest (.command 0b00000010 ops) = .ok (.hdrEncode ops.header ops.cap) ∧
    decodeRequest (.command 0b00000011 ops) = .ok (.hdrSize ops.payloadSize ops.isMasked) ∧
    decodeRequest (.command 0b00010000 ops) = .ok (.maskApply ops.mask ops.data) ∧
    decodeRequest (.command 0b00100000 ops) = .ok (.csDecode ops.data) ∧
    decodeRequest (.command 0b00100001 ops) = .ok (.csEncode ops.code ops.cap) ∧
    decodeRequest (.command 0b00100010 ops) = .ok (.csClassify ops.code) ∧
    decodeRequest (.command 0b00100011 ops) = .ok (.csNamedProtocol ops.code) ∧
    decodeRequest (.command 0b00100100 ops) = .ok (.csNamedIana ops.code) ∧
    decodeRequest (.command 0b00110000 ops) = .ok (.decInit ops.d) ∧
    decodeRequest (.command 0b00110001 ops) = .ok (.decFeed ops.d ops.chunk) := by
  refine ⟨rfl, rfl, rfl, rfl, rfl, rfl, rfl, rfl, rfl, rfl, rfl⟩

/-- 30_encoding.md R71: neighbours of the command bytes are rejected by name. -/
theorem test_decode_reserved_commands (ops : Operands) :
    decodeRequest (.command 0x00 ops) = .error (.badCommand 0x00) ∧
    decodeRequest (.command 0x04 ops) = .error (.badCommand 0x04) ∧
    decodeRequest (.command 0x25 ops) = .error (.badCommand 0x25) ∧
    decodeRequest (.command 0xFF ops) = .error (.badCommand 0xFF) := by
  refine ⟨rfl, rfl, rfl, rfl⟩

/-- 30_encoding.md R56, R64: FIN RSV1 RSV2 RSV3 OpCode, each row with other flags. -/
theorem test_decode_frame_rows :
    decodeByte0 0b00000000 [0x7D] = .frameContinuation false false false false [0x7D] ∧
    decodeByte0 0b10000001 [] = .frameText true false false false [] ∧
    decodeByte0 0b01000010 [] = .frameBinary false true false false [] ∧
    decodeByte0 0b00101000 [] = .frameConnectionClose false false true false [] ∧
    decodeByte0 0b00011001 [] = .framePing false false false true [] ∧
    decodeByte0 0b11111010 [] = .framePong true true true true [] ∧
    decodeByte0 0b10000011 [] = .frameInvalidOpcode true false false false 3 [] ∧
    decodeByte0 0b01111111 [] = .frameInvalidOpcode false true true true 15 [] := by decide

/-- 30_encoding.md R57, R58, R59: Mask and LengthField. -/
theorem test_decode_length_rows :
    decodeByte1 0x81 0b00000000 [] = .len7 0x81 false 0 [] ∧
    decodeByte1 0x81 0b11111101 [1] = .len7 0x81 true 125 [1] ∧
    decodeByte1 0x81 0b01111110 [] = .len16 0x81 false [] ∧
    decodeByte1 0x81 0b11111110 [] = .len16 0x81 true [] ∧
    decodeByte1 0x81 0b01111111 [] = .len64 0x81 false [] ∧
    decodeByte1 0x81 0b11111111 [] = .len64 0x81 true [] := by decide

/-- The encoder writes the bytes of R56 and R57. -/
theorem test_encode_header_bytes :
    encode (.framePing true false false true [0x00]) = .headerByte0 0b10011001 [0x00] ∧
    encode (.len7 0x82 true 5 [1, 2, 3, 4]) = .headerByte1 0x82 0b10000101 [1, 2, 3, 4] ∧
    encode (.len64 0x82 false []) = .headerByte1 0x82 0b01111111 [] ∧
    encode (.csEncode 1000 2) = .command 0x21 { Operands.idle with code := 1000, cap := 2 } := by decide

/-- The table words of the eleven commands. -/
theorem test_table_words_of_commands :
    decodeTableWord 8 0x01 = some (.hdrDecode []) ∧ decodeTableWord 8 0x03 = some (.hdrSize 0 false) ∧
    decodeTableWord 8 0x10 = some (.maskApply ⟨0, 0, 0, 0⟩ []) ∧ decodeTableWord 8 0x24 = some (.csNamedIana 0) ∧
    decodeTableWord 8 0x31 = some (.decFeed 0 []) := by decide

/-- Table words of the two wire spaces. -/
theorem test_table_words_of_header_bytes :
    decodeTableWord 8 0x08 = some (.frameConnectionClose false false false false []) ∧
    decodeTableWord 8 0x0B = some (.frameInvalidOpcode false false false false 11 []) ∧
    decodeTableWord 8 0x7E = some (.len16 0 false []) ∧ decodeTableWord 8 0xFF = some (.len64 0 true []) ∧
    decodeTableWord 8 0x80 = some (.len7 0 true 0 []) := by decide

/-- A fetched word is the request the very next step performs (30_encoding.md R69). -/
theorem test_step_runs_the_fetched_word :
    (nextState? (step (State.reset.withFetchWord 8 0x20))).map (fun s => (s.inputs, s.responses)) =
      some ([], [.csDecode 1005]) := by decide

/-- 30_encoding.md R71 in a step: the Fault is a next state. -/
theorem test_step_reserved_command :
    (nextState? (step { State.reset with inputs := [.request (.command 0xFF Operands.idle)] })).map
      (fun s => (s.fault, s.responses)) = some (.badCommand, [.fault .badCommand]) := by decide

/-! ### The port codes of 30_encoding.md R72 to R75, 10_state.md R27 and 60_exceptions.md R171 -/

theorem test_outcome_codes :
    [HdrOutcome.success helloHeader 6, .incomplete, .invalidOpCode, .payloadSizeInflatedEncoding,
      .payloadSizeEighthByteMSBNotZero].map HdrOutcome.code = [0, 1, 2, 3, 4] := by decide
theorem test_range_codes :
    [CodeRange.unused, .protocol, .iana, .privateRange, .outside].map CodeRange.code = [0, 1, 2, 3, 4] := by decide
theorem test_status_codes : [Status.awaitingHeader, .awaitingPayload, .errored].map Status.code = [0, 1, 2] := by decide
theorem test_cause_codes :
    [FaultCause.none, .badCommand, .badInstance, .hdrBadOpcode, .hdrDstTooSmall, .csDstTooSmall,
      .pendingOverflow].map FaultCause.code = [0, 1, 2, 3, 4, 5, 6] := by decide

/-! ### The Header unit -/

/-- V-D12, V-D13: 3 and 4 key bytes. -/
theorem test_hdrDecode_key :
    replyOf (.hdrDecode [0x82, 0xFE, 0x00, 0x7E, 1, 2, 3]) = some (.hdrDecode .incomplete) ∧
    replyOf (.hdrDecode [0x82, 0xFE, 0x00, 0x7E, 1, 2, 3, 4]) =
      some (.hdrDecode (.success (masked 2 126 ⟨1, 2, 3, 4⟩) 8)) := by decide

/-- V-D6, V-D11: the checks in wire order. -/
theorem test_hdrDecode_check_order :
    replyOf (.hdrDecode [0x0F, 0x7E]) = some (.hdrDecode .invalidOpCode) ∧
    replyOf (.hdrDecode [0x82, 0xFE, 0x00, 0x7D]) = some (.hdrDecode .payloadSizeInflatedEncoding) := by decide

/-- V-E7: every flag, the largest decodable size, a key. -/
theorem test_hdrEncode_long_form :
    replyOf (.hdrEncode { fin := false, rsv1 := true, rsv2 := true, rsv3 := true, opCode := 0, isMasked := true,
                          payloadSize := 9223372036854775807, mask := ⟨1, 2, 3, 4⟩ } 14) =
      some (.hdrEncode [0x70, 0xFF, 0x7F, 0xFF, 0xFF, 0xFF, 0xFF, 0xFF, 0xFF, 0xFF, 1, 2, 3, 4] 14) := by decide

/-- V-E12, V-E13: the two Faults, the opcode first. -/
theorem test_hdrEncode_faults :
    replyOf (.hdrEncode (plain 3 0) 0) = some (.fault .hdrBadOpcode) ∧
    replyOf (.hdrEncode (masked 1 5 ⟨1, 2, 3, 4⟩) 5) = some (.fault .hdrDstTooSmall) := by decide

/-- V-S2, V-S4, V-S5, V-S6, V-S8. -/
theorem test_hdrSize :
    [replyOf (.hdrSize 125 false), replyOf (.hdrSize 126 false), replyOf (.hdrSize 65535 true),
      replyOf (.hdrSize 65536 false), replyOf (.hdrSize 18446744073709551615 true)] =
    [some (.hdrSize 2), some (.hdrSize 4), some (.hdrSize 8), some (.hdrSize 10), some (.hdrSize 14)] := by decide

/-! ### The rows of the two wire spaces, by the HDR_DECODE vectors with the same bytes -/

/-- W1. -/
theorem test_frameContinuation :
    replyOf (.frameContinuation false false false false [0x00]) =
      some (.hdrDecode (.success { plain 0 0 with fin := false } 2)) := by decide

/-- V-D2: one byte. -/
theorem test_frameText : replyOf (.frameText true false false false []) = some (.hdrDecode .incomplete) := by decide

/-- V-D9. -/
theorem test_frameBinary :
    replyOf (.frameBinary true false false false [0x7E, 0x00, 0x7E]) = some (.hdrDecode (.success (plain 2 126) 4)) := by
  decide

/-- V-D25. -/
theorem test_frameConnectionClose :
    replyOf (.frameConnectionClose true false false false [0x02, 0x03, 0xE8]) =
      some (.hdrDecode (.success (plain 8 2) 2)) := by decide

/-- V-D23. -/
theorem test_framePing :
    replyOf (.framePing true true true true [0x7D]) =
      some (.hdrDecode (.success { plain 9 125 with rsv1 := true, rsv2 := true, rsv3 := true } 2)) := by decide

/-- V-D24. -/
theorem test_framePong :
    replyOf (.framePong false false false false [0x80, 0x11, 0x22, 0x33, 0x44]) =
      some (.hdrDecode (.success { masked 10 0 ⟨0x11, 0x22, 0x33, 0x44⟩ with fin := false } 6)) := by decide

/-- V-D3, V-D4. -/
theorem test_frameInvalidOpcode :
    replyOf (.frameInvalidOpcode true false false false 3 []) = some (.hdrDecode .incomplete) ∧
    replyOf (.frameInvalidOpcode true false false false 3 [0x00]) = some (.hdrDecode .invalidOpCode) := by decide

/-- The header bytes of W2, and V-D5's invalid opcode. -/
theorem test_len7 :
    replyOf (.len7 0x81 true 5 [0x37, 0xFA, 0x21, 0x3D]) = some (.hdrDecode (.success helloHeader 6)) ∧
    replyOf (.len7 0x8B false 0 []) = some (.hdrDecode .invalidOpCode) := by decide

/-- V-D8, W3, V-D10. -/
theorem test_len16 :
    replyOf (.len16 0x82 false [0x00]) = some (.hdrDecode .incomplete) ∧
    replyOf (.len16 0x00 false [0x00, 0x7D]) = some (.hdrDecode .payloadSizeInflatedEncoding) ∧
    replyOf (.len16 0x82 false [0xFF, 0xFF]) = some (.hdrDecode (.success (plain 2 65535) 4)) := by decide

/-- V-D15, V-D16, V-D17. -/
theorem test_len64_errors :
    replyOf (.len64 0x02 false [0, 0, 0, 0, 0, 1, 0]) = some (.hdrDecode .incomplete) ∧
    replyOf (.len64 0x02 false [0x80, 0, 0, 0, 0, 0, 0, 0]) = some (.hdrDecode .payloadSizeEighthByteMSBNotZero) ∧
    replyOf (.len64 0x02 false [0, 0, 0, 0, 0, 0, 0xFF, 0xFF]) = some (.hdrDecode .payloadSizeInflatedEncoding) := by
  decide

/-- V-D22, V-D19. -/
theorem test_len64_sizes :
    replyOf (.len64 0x82 true [0, 0, 0, 0, 0, 1, 0, 0, 0xAA, 0xBB, 0xCC, 0xDD, 0xEE]) =
      some (.hdrDecode (.success (masked 2 65536 ⟨0xAA, 0xBB, 0xCC, 0xDD⟩) 14)) ∧
    replyOf (.len64 0x02 false [0x7F, 0xFF, 0xFF, 0xFF, 0xFF, 0xFF, 0xFF, 0xFF]) =
      some (.hdrDecode (.success { plain 2 9223372036854775807 with fin := false } 10)) := by decide

/-! ### The Masking and CloseStatus units -/

/-- V-M1, V-M5. -/
theorem test_maskApply :
    replyOf (.maskApply ⟨0x37, 0xFA, 0x21, 0x3D⟩ [0x48, 0x65, 0x6C, 0x6C, 0x6F]) =
      some (.maskApply [0x7F, 0x9F, 0x4D, 0x51, 0x58]) ∧
    replyOf (.maskApply ⟨0x12, 0x34, 0x56, 0x78⟩ [0x12, 0x34, 0x56, 0x78, 0x12]) = some (.maskApply [0, 0, 0, 0, 0]) := by
  decide

/-- V-C2, V-C4. -/
theorem test_csDecode :
    replyOf (.csDecode [0x03]) = some (.csDecode 1005) ∧
    replyOf (.csDecode [0x0F, 0xA3, 0x4F, 0x4B]) = some (.csDecode 4003) := by decide

/-- V-C6, V-C7, V-C8. -/
theorem test_csEncode :
    replyOf (.csEncode 1000 2) = some (.csEncode [0x03, 0xE8] 2) ∧ replyOf (.csEncode 1005 0) = some (.csEncode [] 0) ∧
    replyOf (.csEncode 1000 1) = some (.fault .csDstTooSmall) := by decide

/-- V-C10 to V-C14: both ends of each range. -/
theorem test_csClassify :
    [0, 999, 1000, 2999, 3000, 3999, 4000, 4999, 5000, 65535].map (fun c => replyOf (.csClassify c)) =
    [CodeRange.unused, .unused, .protocol, .protocol, .iana, .iana, .privateRange, .privateRange, .outside,
      .outside].map (fun r => some (Response.csClassify r)) := by decide

/-- V-C16, V-C17, V-C18. -/
theorem test_csNamedProtocol :
    replyOf (.csNamedProtocol 1005) = some (.csNamedProtocol true 4) ∧
    replyOf (.csNamedProtocol 1011) = some (.csNamedProtocol true 9) ∧
    replyOf (.csNamedProtocol 1006) = some (.csNamedProtocol false 0) := by decide

/-- W6, V-C21. -/
theorem test_csNamedIana :
    replyOf (.csNamedIana 3003) = some (.csNamedIana true 1) ∧
    replyOf (.csNamedIana 3001) = some (.csNamedIana false 0) := by decide

/-! ### The Decoder unit -/

/-- P4 request 3. -/
theorem test_decInit_restarts : after (withInstance errored) (.decInit 0) = some (some (buffering []), some .decInit) := by
  decide

/-- V-F13, on DEC_INIT. -/
theorem test_decInit_bad_instance : replyOf (.decInit 4) = some (.fault .badInstance) := by decide

/-- W2. -/
theorem test_decFeed_hello :
    after State.reset (.decFeed 0 helloWire) = some (some (buffering []), some (.decFeed false [helloFrame] 0)) := by decide

/-- P4 request 1: a frame, then an invalid opcode. -/
theorem test_decFeed_error_after_a_frame :
    after State.reset (.decFeed 0 [0x89, 0x00, 0x83, 0x00, 0x81, 0x00]) =
      some (some errored, some (.decFeed true [{ header := plain 9 0, payload := [] }] 4)) := by decide

/-! ### Witnesses: states and operands that meet the hypotheses of a statement, at the edges of each clause -/

theorem witness_EncodedOperationDecodesToItself :
    (Instr.frameInvalidOpcode true false false false 3 []).wf = true ∧ (Instr.len7 0 false 125 []).wf = true ∧
    (Instr.decFeed 0 []).wf = true := by decide

theorem witness_DecodingKeepsEveryHeaderByte :
    decodeRequest (.headerByte1 0 0xFF []) = .ok (.len64 0 true []) ∧
    decodeRequest (.command 0x31 Operands.idle) = .ok (.decFeed 0 []) := ⟨rfl, rfl⟩

theorem witness_StepPerformsTheDecodedOperation :
    ∃ (s : State) (r : Request) (i : Instr), s.fault = .none ∧ s.inputs = [.request r] ∧ decodeRequest r = .ok i :=
  ⟨State.reset.withFetchWord 8 0x30, _, .decInit 0, by decide, rfl, rfl⟩

theorem witness_ReservedCommandOrInstanceFaults :
    (∀ cmd ∈ [(0x00 : Byte), 0x04, 0x0F, 0x11, 0x1F, 0x25, 0x2F, 0x32, 0xFF],
      cmd.toNat ∉ [0x01, 0x02, 0x03, 0x10, 0x20, 0x21, 0x22, 0x23, 0x24, 0x30, 0x31]) ∧
    (State.reset.fault = .none ∧ State.reset.decoders.length ≤ 4) ∧
    OnDecoder (.decInit 4) 4 ∧ OnDecoder (.decFeed 4 []) 4 :=
  ⟨by decide, by decide, .inl rfl, .inr ⟨[], rfl⟩⟩

theorem witness_FaultedBlockIsQuiescent :
    (faulted []).fault ≠ .none ∧ (faulted [.request (tableRequest 8 1)]).fault ≠ .none ∧
    (faulted [.blockReset]).inputs = [.blockReset] := by decide

theorem witness_BlockResetRestoresResetValues :
    3 < Config.default.numDecoders ∧ (faulted [.blockReset]).inputs = [.blockReset] ∧
    (nextState? (step (faulted [.blockReset]))).map (fun t => (t.fault, t.decoders[3]?)) =
      some (.none, some (buffering [])) := by decide

theorem witness_ShortInputThenOpcodeDecide :
    ([] : Bytes).length < 2 ∧ [(0x83 : Byte)].length < 2 ∧
    ∀ b0 ∈ [(0x03 : Byte), 0x87, 0x0B, 0xFF], b0.toNat % 16 ∉ [0, 1, 2, 8, 9, 10] := by decide

theorem witness_SevenBitLengthIsLiteralSize :
    (0xF9 : Byte).toNat % 16 ∈ [0, 1, 2, 8, 9, 10] ∧ (0 : BitVec 7).toNat ≤ 125 ∧ (125 : BitVec 7).toNat ≤ 125 ∧
    [(1 : Byte), 2, 3].length < 4 ∧
    ∃ k0 k1 k2 k3 tail, [(1 : Byte), 2, 3, 4] = k0 :: k1 :: k2 :: k3 :: tail :=
  ⟨by decide, by decide, by decide, by decide, 1, 2, 3, 4, [], rfl⟩

theorem witness_SixteenBitLengthIsReadAndChecked :
    (0x82 : Byte).toNat % 16 ∈ [0, 1, 2, 8, 9, 10] ∧ [(0 : Byte)].length < 2 ∧
    (0x00 : Byte).toNat * 256 + (0x7D : Byte).toNat < 126 ∧ 126 ≤ (0x00 : Byte).toNat * 256 + (0x7E : Byte).toNat ∧
    126 ≤ (0xFF : Byte).toNat * 256 + (0xFF : Byte).toNat ∧ [(1 : Byte), 2, 3].length < 4 ∧
    ∃ k0 k1 k2 k3 tl, [(1 : Byte), 2, 3, 4] = k0 :: k1 :: k2 :: k3 :: tl :=
  ⟨by decide, by decide, by decide, by decide, by decide, by decide, 1, 2, 3, 4, [], rfl⟩

/-- The number the eight bytes of a 64-bit field stand for, as `Obligations.SixtyFourBitLengthIsReadAndChecked` has it. -/
def field64 (x0 x1 x2 x3 x4 x5 x6 x7 : Byte) : Nat :=
  x0.toNat * 2 ^ 56 + x1.toNat * 2 ^ 48 + x2.toNat * 2 ^ 40 + x3.toNat * 2 ^ 32 + x4.toNat * 2 ^ 24
    + x5.toNat * 2 ^ 16 + x6.toNat * 2 ^ 8 + x7.toNat

theorem witness_SixtyFourBitLengthIsReadAndChecked :
    [(0 : Byte), 0, 0, 0, 0, 1, 0].length < 8 ∧ 2 ^ 63 ≤ field64 0x80 0 0 0 0 0 0 0 ∧
    2 ^ 63 ≤ field64 0xFF 0xFF 0xFF 0xFF 0xFF 0xFF 0xFF 0xFF ∧ field64 0 0 0 0 0 0 0xFF 0xFF < 65536 ∧
    65536 ≤ field64 0 0 0 0 0 1 0 0 ∧ field64 0 0 0 0 0 1 0 0 < 2 ^ 63 ∧
    65536 ≤ field64 0x7F 0xFF 0xFF 0xFF 0xFF 0xFF 0xFF 0xFF ∧
    field64 0x7F 0xFF 0xFF 0xFF 0xFF 0xFF 0xFF 0xFF < 2 ^ 63 := by decide

theorem witness_ValidOpcodeRowsAreAcceptedAndCopied :
    (Instr.framePong, 0xA) ∈ [(Instr.frameContinuation, 0x0), (Instr.frameText, 0x1), (Instr.frameBinary, 0x2),
      (Instr.frameConnectionClose, 0x8), (Instr.framePing, 0x9), (Instr.framePong, 0xA)] ∧
    (0x00 : Byte).toNat ≤ 125 ∧ (0x7D : Byte).toNat ≤ 125 ∧
    hdrDecode [0xFA, 0x7D] = .success { plain 10 125 with rsv1 := true, rsv2 := true, rsv3 := true } 2 :=
  ⟨by simp, by decide, by decide, by decide⟩

theorem witness_InvalidOpcodeRowIsReported :
    ∀ op ∈ [(3 : BitVec 4), 7, 11, 15], op.toNat ∈ [3, 4, 5, 6, 7, 11, 12, 13, 14, 15] := by decide

theorem witness_HdrDecodeIsStableUnderExtension :
    hdrDecode [0x88, 0x02] = .success (plain 8 2) 2 ∧ hdrDecode [0x83, 0x00] = .invalidOpCode ∧
    hdrDecode [0x82, 0xFE, 0x00, 0x7D] = .payloadSizeInflatedEncoding ∧
    hdrDecode [0x02, 0x7F, 0x80, 0, 0, 0, 0, 0, 0, 0] = .payloadSizeEighthByteMSBNotZero ∧
    hdrDecode ([0x82] ++ [0x7E]) = .incomplete := by decide

theorem plain_wf (op : BitVec 4) (size : BitVec 64) (h : validOpcode op = true) (hs : size.toNat < 2 ^ 63) :
    (plain op size).WellFormed := ⟨h, fun _ => rfl, hs⟩

theorem masked_wf (op : BitVec 4) (size : BitVec 64) (k : MaskKey) (h : validOpcode op = true)
    (hs : size.toNat < 2 ^ 63) : (masked op size k).WellFormed := ⟨h, fun he => (Bool.noConfusion he), hs⟩

theorem witness_HeaderRoundTrip :
    ∃ h : Header, h.WellFormed ∧ h.payloadSize.toNat = 2 ^ 63 - 1 ∧ encSize h.payloadSize h.isMasked ≤ 14 :=
  ⟨masked 2 9223372036854775807 ⟨1, 2, 3, 4⟩, masked_wf _ _ _ (by decide) (by decide), by decide, by decide⟩

theorem witness_DecodedHeaderReencodesToItsBytes :
    hdrDecode [0x82, 0xFF, 0, 0, 0, 0, 0, 1, 0, 0, 0xAA, 0xBB, 0xCC, 0xDD, 0xEE] =
      .success (masked 2 65536 ⟨0xAA, 0xBB, 0xCC, 0xDD⟩) 14 := by decide

theorem witness_HdrEncodeWritesTheMinimalLayout :
    encSize (125 : BitVec 64) false ≤ 2 ∧ encSize (126 : BitVec 64) false ≤ 4 ∧ encSize (65535 : BitVec 64) true ≤ 8 ∧
    encSize (65536 : BitVec 64) false ≤ 10 ∧ encSize (18446744073709551615 : BitVec 64) true ≤ 14 ∧
    (plain 10 126).opCode.toNat ∈ [0, 1, 2, 8, 9, 10] := by decide

theorem witness_UnreadableSizesAreEncodedButNotDecoded :
    (plain 1 9223372036854775808).opCode.toNat ∈ [0, 1, 2, 8, 9, 10] ∧
    2 ^ 63 ≤ (plain 1 9223372036854775808).payloadSize.toNat := by decide

theorem witness_HdrEncodeFaultsOnBadOpcodeThenSmallDestination :
    (plain 3 0).opCode.toNat ∉ [0, 1, 2, 8, 9, 10] ∧ (plain 15 0).opCode.toNat ∉ [0, 1, 2, 8, 9, 10] ∧
    helloHeader.opCode.toNat ∈ [0, 1, 2, 8, 9, 10] ∧ 5 < encSize helloHeader.payloadSize helloHeader.isMasked := by decide

theorem witness_MaskApplyXorsCyclically : ([0x48, 0x65, 0x6C, 0x6C, 0x6F] : Bytes)[4]? = some 0x6F := by decide

theorem answers_of_answer {i : Instr} {r : Response} (h : ∀ s, exec i s = s.answer r) : Answers i r := by
  intro s hs
  rw [h s, answer_of_live hs]
  rfl

theorem witness_MaskingTwiceIsTheIdentity : Answers (.maskApply ⟨0xFF, 0, 0xFF, 0⟩ [1, 1]) (.maskApply [0xFE, 1]) :=
  answers_of_answer (fun _ => rfl)

theorem witness_CsDecodeReadsTwoBytesOrAnswers1005 : ([] : Bytes).length < 2 ∧ [(3 : Byte)].length < 2 := by decide

theorem witness_CsEncodeWritesTwoBytesOrNothing : (1000 : BitVec 16) ≠ 1005 ∧ (1 < 2 ∧ 2 ≤ 2) := by decide

theorem witness_CloseCodeRoundTrip :
    2 ≤ 2 ∧ replyOf (.csEncode 0 2) = some (.csEncode [0, 0] 2) ∧ replyOf (.csDecode [0, 0]) = some (.csDecode 0) := by
  decide

theorem witness_ClassifyIsTheRangeOfTheCode :
    (999 : BitVec 16).toNat ≤ 999 ∧ 1000 ≤ (1000 : BitVec 16).toNat ∧ (2999 : BitVec 16).toNat ≤ 2999 ∧
    3000 ≤ (3000 : BitVec 16).toNat ∧ (3999 : BitVec 16).toNat ≤ 3999 ∧ 4000 ≤ (4000 : BitVec 16).toNat ∧
    (4999 : BitVec 16).toNat ≤ 4999 ∧ 5000 ≤ (5000 : BitVec 16).toNat := by decide

theorem witness_TenProtocolCodesAreNamed :
    [1000, 1001, 1002, 1003, 1005, 1007, 1008, 1009, 1010, 1011][0]? = some (1000 : BitVec 16).toNat ∧
    [1000, 1001, 1002, 1003, 1005, 1007, 1008, 1009, 1010, 1011][9]? = some (1011 : BitVec 16).toNat ∧
    (1004 : BitVec 16).toNat ∉ [1000, 1001, 1002, 1003, 1005, 1007, 1008, 1009, 1010, 1011] ∧
    (1006 : BitVec 16).toNat ∉ [1000, 1001, 1002, 1003, 1005, 1007, 1008, 1009, 1010, 1011] := by decide

theorem witness_TwoIanaCodesAreNamed :
    [3000, 3003][0]? = some (3000 : BitVec 16).toNat ∧ [3000, 3003][1]? = some (3003 : BitVec 16).toNat ∧
    (3001 : BitVec 16).toNat ∉ [3000, 3003] := by decide

theorem witness_NamedCodesLieInTheirRange :
    Answers (.csNamedProtocol 1000) (.csNamedProtocol true 0) ∧
    Answers (.csNamedIana 3003) (.csNamedIana true 1) :=
  ⟨answers_of_answer (fun _ => rfl), answers_of_answer (fun _ => rfl)⟩

theorem witness_DecInitRestartsOneInstance :
    State.reset.fault = .none ∧ 3 < State.reset.decoders.length ∧ ¬ 4 < State.reset.decoders.length := by decide

theorem witness_FeedOnErroredReportsAgain :
    (withInstance errored).fault = .none ∧ (withInstance errored).decoders[0]? = some errored := by decide

theorem witness_FeedBuffersAnIncompleteHeader :
    (capped 13 (buffering [0x81])).fault = .none ∧
    (capped 13 (buffering [0x81])).decoders[0]? = some (buffering [0x81]) ∧
    hdrDecode ([0x81] ++ [0xFF, 0, 0, 0, 0, 0, 1, 0, 0, 1, 2, 3]) = .incomplete ∧
    fitsCap (some 13) (1 + 12) = true ∧ fitsCap (some 12) (1 + 12) = false := by decide

theorem witness_FeedFailsOnAStructuralError :
    State.reset.decoders[0]? = some (buffering []) ∧
    hdrDecode ([0x83] ++ [0x00]) = .invalidOpCode ∧
    hdrDecode ([0x82, 0x7E, 0x00] ++ [0x7D, 0x00]) = .payloadSizeInflatedEncoding ∧
    hdrDecode ([] ++ [0x81, 0x7F, 0x80, 0, 0, 0, 0, 0, 0, 0]) = .payloadSizeEighthByteMSBNotZero := by decide

/-- With `PENDING_CAP = 1` the payload after the header fits or overflows. -/
theorem witness_FeedGoesOnAfterAHeader :
    (capped 1 (buffering [0x82])).decoders[0]? = some (buffering [0x82]) ∧
    hdrDecode ([0x82] ++ [0x03, 0x01]) = .success (plain 2 3) 2 ∧
    after (capped 1 (buffering [0x82])) (.decFeed 0 [0x03, 0x01]) =
      some (some (paying (plain 2 3) [0x01]), some (.decFeed false [] 1)) ∧
    after (capped 1 (buffering [0x82])) (.decFeed 0 [0x03, 0x01, 0x02]) =
      some (some (buffering [0x82]), some (.fault .pendingOverflow)) := by decide

theorem witness_FeedBuffersAShortPayload :
    (capped 13 (paying (plain 2 15) [])).decoders[0]? = some (paying (plain 2 15) []) ∧
    0 + 14 < (plain 2 15).payloadSize.toNat ∧ fitsCap (some 13) (0 + 14) = false ∧ fitsCap (some 14) (0 + 14) = true := by
  decide

/-- A complete payload is delivered whatever `PENDING_CAP` is; one byte of a next header behind it overflows a
`PENDING_CAP` of 0. -/
theorem witness_FeedEmitsACompletePayload :
    (capped 0 (paying (plain 2 1) [])).decoders[0]? = some (paying (plain 2 1) []) ∧
    (plain 2 1).payloadSize.toNat ≤ 0 + 1 ∧
    after (capped 0 (paying (plain 2 1) [])) (.decFeed 0 [0x55]) =
      some (some (buffering []), some (.decFeed false [{ header := plain 2 1, payload := [0x55] }] 0)) ∧
    after (capped 0 (paying (plain 2 1) [])) (.decFeed 0 [0x55, 0x81]) =
      some (some (paying (plain 2 1) []), some (.fault .pendingOverflow)) := by decide

theorem witness_FeedIsAtomic :
    (∀ st ∈ [buffering [0x81], paying (plain 2 3) [1], errored], st.readable = true) ∧
    State.reset.decoders[3]? = some (buffering []) ∧ State.reset.decoders.length ≤ 4 := by decide

theorem witness_NumExtraIsTheLengthOfPending :
    ∃ t, exec (.decFeed 0 [0x89, 0x00, 0x81]) State.reset = .next t ∧
      t.responses = State.reset.responses ++ [.decFeed false [{ header := plain 9 0, payload := [] }] 1] :=
  ⟨_, rfl, by decide⟩

theorem buffering_inv (p : Bytes) (h : hdrDecode p = .incomplete) (hl : p.length ≤ 13) : (buffering p).Inv none where
  header_iff := ⟨fun h => Bool.noConfusion h, fun h => nomatch h⟩
  header_wf := by rintro h ⟨⟩
  pending_header := fun _ => ⟨h, hl⟩
  pending_payload := by rintro h ⟨⟩
  errored_empty := by rintro ⟨⟩
  pending_fits := rfl

theorem paying_inv (op : BitVec 4) (size : BitVec 64) (p : Bytes) (ho : validOpcode op = true)
    (hs : size.toNat < 2 ^ 63) (hp : p.length < size.toNat) : (paying (plain op size) p).Inv none where
  header_iff := ⟨fun _ => rfl, fun _ => rfl⟩
  header_wf := by rintro h ⟨⟩; exact plain_wf op size ho hs
  pending_header := by rintro ⟨⟩
  pending_payload := by rintro h ⟨⟩; exact hp
  errored_empty := by rintro ⟨⟩
  pending_fits := rfl

theorem witness_EmptyChunkChangesNothing :
    (buffering [0x81]).Inv none ∧ (paying (plain 2 3) [1, 2]).Inv none ∧ (buffering [0x81]).status ≠ .errored ∧
    (withInstance (buffering [0x81])).decoders[0]? = some (buffering [0x81]) :=
  ⟨buffering_inv _ (by decide) (by decide), paying_inv _ _ _ (by decide) (by decide) (by decide), by decide, by decide⟩

theorem witness_FeedWithoutHeaderStops :
    (withInstance { buffering [] with status := .awaitingPayload }).decoders[0]? =
      some { status := .awaitingPayload, pending := [], currentHeader := none } := by decide

/-- The whole of W2 in three chunks, with an empty one. -/
theorem witness_FragmentationInvariance :
    State.reset.fault = .none ∧ State.reset.pendingCap = none ∧ State.reset.decoders[0]? = some (buffering []) ∧
    (buffering []).readable = true ∧ [helloWire.take 3, [], helloWire.drop 3] ≠ [] ∧
    [helloWire.take 3, [], helloWire.drop 3].flatten = helloWire := by decide

theorem helloFrame_wf : helloFrame.WellFormed :=
  ⟨masked_wf 1 5 _ (by decide) (by decide), rfl⟩

theorem witness_WireFramesAreDeliveredInOneCall :
    State.reset.fault = .none ∧ State.reset.decoders[0]? = some (buffering []) ∧
    (∀ f ∈ [helloFrame, helloFrame], f.WellFormed) ∧ helloFrame.wire = helloWire :=
  ⟨by decide, by decide, by simp [helloFrame_wf], by decide⟩

theorem witness_WireFramesAreDeliveredHoweverSplit :
    [helloWire.take 1, helloWire.drop 1 ++ helloWire].flatten = [helloFrame, helloFrame].flatMap Frame.wire ∧
    (∀ f ∈ [helloFrame, helloFrame], f.WellFormed) ∧ State.reset.pendingCap = none :=
  ⟨by decide, by simp [helloFrame_wf], rfl⟩

theorem witness_ErroredAndFaultAreLeftOnlyByReset :
    (∃ t, step { withInstance errored with inputs := [.request (encode (.decInit 0))] } = .next t ∧
      t.decoders[0]? = some (buffering [])) ∧
    (∃ t, step (faulted [.blockReset]) = .next t ∧ t.fault = .none) :=
  ⟨⟨_, rfl, by decide⟩, ⟨_, rfl, by decide⟩⟩

theorem witness_FaultsArePrecise :
    ∃ t, step { State.reset with inputs := [.request (encode (.csEncode 1000 1)), .blockReset] } = .next t ∧
      t.fault = .csDstTooSmall := ⟨_, rfl, by decide⟩

theorem witness_OperationsChangeOnlyTheirInstance :
    (∃ t, exec (.decFeed 1 [0x81]) State.reset = .next t ∧ t.decoders[1]? = some (buffering [0x81]) ∧
      t.decoders[0]? = some (buffering [])) ∧
    ¬ OnDecoder (.decFeed 1 [0x81]) 0 ∧ ¬ OnDecoder (.csDecode []) 0 := by
  refine ⟨⟨_, rfl, by decide⟩, ?_, ?_⟩ <;> rintro (h | ⟨_, h⟩) <;> cases h

theorem witness_OperationsOnDifferentInstancesCommute :
    OnDecoder (.decFeed 0 [0x81]) 0 ∧ OnDecoder (.decInit 1) 1 ∧
    ∃ a b, exec (.decFeed 0 [0x81]) State.reset = .next a ∧ exec (.decInit 1) a = .next b ∧ b.fault = .none :=
  ⟨.inr ⟨_, rfl⟩, .inl rfl, _, _, rfl, rfl, by decide⟩

/-- A state whose instances await headers, that has performed one request and has another to come. -/
def running : State :=
  { withInstance (buffering [0x81]) with
    inputs := [.request (encode (.decFeed 0 [0x00]))],
    issued := [encode (.decFeed 0 [0x81])], responses := [.decFeed false [] 1] }

theorem running_inv (inputs : List HostInput) : ({ running with inputs := inputs } : State).Inv where
  decoders_inv := by
    intro st h
    have : st = buffering [0x81] ∨ st = buffering [] := by
      simpa [running, withInstance, State.reset, State.resetOf, Config.default, List.replicate, buffering,
        DecoderState.initial] using h
    rcases this with rfl | rfl
    · exact buffering_inv _ (by decide) (by decide)
    · exact buffering_inv _ (by decide) (by decide)
  responses_wf := by intro r h; simp only [running, List.mem_singleton] at h; subst h; intro f hf; cases hf
  one_response_each := rfl
  fault_recorded := .inl ⟨rfl, by intro r h; simp only [running, List.mem_singleton] at h; subst h; rfl⟩

theorem witness_EveryStepKeepsTheInvariant : running.Inv ∧ ∃ t, step running = .next t := ⟨running_inv _, _, rfl⟩

theorem witness_EveryStepOfALiveBlockCompletes : running.Inv ∧ running.fault = .none := ⟨running_inv _, rfl⟩

/-- The step's request is the last one, a call that completes a frame: the run is at a normal end. -/
theorem witness_ANormalEndIsReachedByACompletedRequest :
    running.Inv ∧ running.inputs = [.request (encode (.decFeed 0 [0x00]))] ∧
    ∃ t, step running = .next t ∧ t.endsNormally = true :=
  ⟨running_inv _, rfl, _, rfl, by decide⟩

/-- The run's last request, with a block reset behind it that begins the next run: the run is at a normal end. -/
theorem witness_ANormalEndIsReachedBeforeABlockReset :
    let s : State := { running with inputs := running.inputs ++ [.blockReset, .request (encode (.decInit 0))] }
    s.Inv ∧ ∃ t, step s = .next t ∧ t.endsNormally = true :=
  ⟨running_inv _, _, rfl, by decide⟩

/-- A request still to come in the same run: not yet a normal end. -/
theorem witness_ANormalEndWaitsForTheLastRequest :
    let s : State := { running with inputs := running.inputs ++ [.request (encode (.decInit 0))] }
    s.Inv ∧ ∃ t, step s = .next t ∧ t.endsNormally = false :=
  ⟨running_inv _, _, rfl, by decide⟩

/-- The step's last request faults: no normal end. -/
theorem witness_ANormalEndIsNotReachedByAFault :
    ({ running with inputs := [.request (encode (.csEncode 1000 1))] } : State).Inv ∧
    ∃ t, step { running with inputs := [.request (encode (.csEncode 1000 1))] } = .next t ∧ t.endsNormally = false :=
  ⟨running_inv _, _, rfl, by decide⟩

end Sys2Proof.Tests
end

/-! ## Family 00_scope: the wire bytes of well-formed frames are delivered as those frames -/

section
/-! The Header unit on the bytes it writes: HDR_DECODE ignores what follows a decided header (40_header.md R106), and
reads back the header that `headerBytes` encodes (R107). -/
namespace Sys2Proof.Machine

/-! ### Bytes behind the ones read -/

@[simp] theorem byteAt_cons_zero (b : Byte) (s : Bytes) : byteAt (b :: s) 0 = b := rfl

@[simp] theorem byteAt_cons_succ (b : Byte) (s : Bytes) (i : Nat) : byteAt (b :: s) (i + 1) = byteAt s i := rfl

theorem byteAt_append {s : Bytes} {i : Nat} (hi : i < s.length) (t : Bytes) : byteAt (s ++ t) i = byteAt s i :=
  List.getD_append _ _ _ _ hi

theorem memRead_append {s : Bytes} {i n : Nat} (hi : i + n ≤ s.length) (t : Bytes) :
    memRead (s ++ t) i n = memRead s i n := by
  simp only [memRead]
  rw [List.drop_append_of_le_length (by omega), List.take_append_of_le_length (by simp; omega)]

theorem readLength16_append {s : Bytes} (h : readLength16 s ≠ .incomplete) (t : Bytes) :
    readLength16 (s ++ t) = readLength16 s := by
  have hs : ¬ s.length < 4 := fun hs => h (if_pos hs)
  have hst : ¬ (s ++ t).length < 4 := by simp; omega
  simp only [readLength16, hs, hst, if_false, memRead_append (show 2 + 2 ≤ s.length by omega)]

theorem readLength64_append {s : Bytes} (h : readLength64 s ≠ .incomplete) (t : Bytes) :
    readLength64 (s ++ t) = readLength64 s := by
  have hs : ¬ s.length < 10 := fun hs => h (if_pos hs)
  have hst : ¬ (s ++ t).length < 10 := by simp; omega
  simp only [readLength64, hs, hst, if_false, memRead_append (show 2 + 8 ≤ s.length by omega),
    byteAt_append (show 2 < s.length by omega)]

/-- Length fields that are all there are read the same whatever follows. -/
theorem readLength_append {lf : BitVec 7} {s : Bytes} (h : readLength lf s ≠ .incomplete) (t : Bytes) :
    readLength lf (s ++ t) = readLength lf s := by
  unfold readLength at h ⊢
  split_ifs at h ⊢
  · rfl
  · exact readLength16_append h t
  · exact readLength64_append h t

/-- A key that is all there is read the same whatever follows. -/
theorem readKey_append {m : Bool} {s : Bytes} {off : Nat} (h : readKey m s off ≠ none) (t : Bytes) :
    readKey m (s ++ t) off = readKey m s off := by
  cases m with
  | false => rfl
  | true =>
    have hs : ¬ s.length < off + 4 := fun hs => h (by simp [readKey, hs])
    have hst : ¬ (s ++ t).length < off + 4 := by simp; omega
    simp only [readKey, if_true, hs, hst, if_false]
    rw [byteAt_append (by omega), byteAt_append (by omega), byteAt_append (by omega), byteAt_append (by omega)]

/-- Once HDR_DECODE has decided, bytes behind its input change nothing (40_header.md R106). -/
theorem hdrDecode_append {s : Bytes} (h : hdrDecode s ≠ .incomplete) (t : Bytes) :
    hdrDecode (s ++ t) = hdrDecode s := by
  have hs : ¬ s.length < 2 := fun hs => h (if_pos hs)
  have hst : ¬ (s ++ t).length < 2 := by simp; omega
  unfold hdrDecode at h ⊢
  simp only [hs, hst, if_false, byteAt_append (show 0 < s.length by omega),
    byteAt_append (show 1 < s.length by omega)] at h ⊢
  split
  · rfl
  · next hop =>
    rw [if_neg hop] at h
    have hl : readLength (lengthField (byteAt s 1)) s ≠ .incomplete := fun hl => h (by rw [hl])
    rw [readLength_append hl]
    cases hr : readLength (lengthField (byteAt s 1)) s with
    | incomplete => exact absurd hr hl
    | inflated => rfl
    | msbNotZero => rfl
    | size ps off =>
      have hk : readKey (maskBit (byteAt s 1)) s off ≠ none := fun hk => h (by simp only [hr, hk])
      simp only [readKey_append hk]

/-! ### Reading back what HDR_ENCODE writes -/

/-- Big-endian reading, from an accumulator, of what big-endian writing gives. -/
theorem foldl_memWrite (n v acc : Nat) :
    (memWrite n v).foldl (fun acc b => acc * 256 + b.toNat) acc = acc * 256 ^ n + v % 256 ^ n := by
  induction n generalizing acc with
  | zero => simp [memWrite, Nat.mod_one]
  | succ n ih =>
    have hdigit : (BitVec.ofNat 8 (v >>> (8 * n))).toNat = v / 256 ^ n % 256 := by
      rw [BitVec.toNat_ofNat, Nat.shiftRight_eq_div_pow, pow_mul]; rfl
    rw [memWrite, List.foldl_cons, ih, hdigit, Nat.mod_pow_succ]
    generalize v / 256 ^ n % 256 = digit
    ring

/-- `memWrite` writes `v mod 256^n` (20_memory.md R41). -/
theorem bigEndian_memWrite (n v : Nat) : bigEndian (memWrite n v) = v % 256 ^ n := by
  simpa [bigEndian] using foldl_memWrite n v 0

/-- Reading the extended length field behind header bytes 0 and 1. -/
theorem memRead_memWrite (b0 b1 : Byte) {n v : Nat} (hv : v < 256 ^ n) (t : Bytes) :
    memRead (b0 :: b1 :: (memWrite n v ++ t)) 2 n = v := by
  have ht : (memWrite n v ++ t).take n = memWrite n v := List.take_left' (length_memWrite n v)
  simp [memRead, ht, bigEndian_memWrite, Nat.mod_eq_of_lt hv]

/-- The first byte of an 8-byte field below 2^63 has its most significant bit clear (40_header.md R90). -/
theorem getLsbD_firstByte {v : Nat} (hv : v < 2 ^ 63) : (BitVec.ofNat 8 (v >>> 56)).getLsbD 7 = false := by
  rw [BitVec.getLsbD_ofNat, Nat.testBit_shiftRight, Nat.testBit_lt_two_pow hv]; rfl

/-- The length fields HDR_ENCODE writes are read back, for every size a decoder accepts (40_header.md R90, R97). -/
theorem readLength_lengthBytes (b0 : Byte) (m : Bool) {ps : BitVec 64} (hps : ps.toNat < 2 ^ 63) (t : Bytes) :
    readLength (lengthField (byteAt (b0 :: (lengthBytes m ps ++ t)) 1)) (b0 :: (lengthBytes m ps ++ t)) =
      .size ps (b0 :: lengthBytes m ps).length := by
  unfold lengthBytes
  split_ifs with h7 h16
  · have hlf : (ps.setWidth 7).toNat = ps.toNat := by rw [BitVec.toNat_setWidth]; omega
    have hback : (ps.setWidth 7).setWidth 64 = ps :=
      BitVec.eq_of_toNat_eq (by rw [BitVec.toNat_setWidth, hlf]; omega)
    simp [readLength, hlf, h7, hback]
  · have hread (b1 : Byte) : memRead (b0 :: b1 :: (memWrite 2 ps.toNat ++ t)) 2 2 = ps.toNat :=
      memRead_memWrite b0 b1 (by omega) t
    have hlong : ¬ 2 + t.length + 1 + 1 < 4 := by omega
    have hmin : ¬ ps.toNat < 126 := by omega
    simp [readLength, readLength16, hread, hlong, hmin]
  · have hread (b1 : Byte) : memRead (b0 :: b1 :: (memWrite 8 ps.toNat ++ t)) 2 8 = ps.toNat :=
      memRead_memWrite b0 b1 (by omega) t
    have hlong : ¬ 8 + t.length + 1 + 1 < 10 := by omega
    have hmin : ¬ ps.toNat < 65536 := by omega
    have hmsb : (byteAt (memWrite 8 ps.toNat ++ t) 0).getLsbD 7 = false := getLsbD_firstByte hps
    simp [-BitVec.getLsbD_eq_getElem, readLength, readLength64, hread, hlong, hmin, hmsb]

theorem maskBit_lengthBytes (b0 : Byte) (m : Bool) (ps : BitVec 64) (t : Bytes) :
    maskBit (byteAt (b0 :: (lengthBytes m ps ++ t)) 1) = m := by
  unfold lengthBytes; split_ifs <;> simp

/-- The key HDR_ENCODE writes at the end of a header is read back (40_header.md R98). -/
theorem readKey_keyBytes (s : Bytes) (m : Bool) {k : MaskKey} (hk : m = false → k = MaskKey.zero) :
    readKey m (s ++ keyBytes m k) s.length = some (k, (s ++ keyBytes m k).length) := by
  cases m with
  | false => simp [readKey, keyBytes, hk rfl]
  | true => simp [readKey, keyBytes, byteAt]

/-- When HDR_DECODE accepts: every field check of 40_header.md R85 passes. -/
theorem hdrDecode_of_fields {s : Bytes} {h : Header} {off n : Nat} (hlen : 2 ≤ s.length)
    (hop : validOpcode h.opCode = true) (h0 : byteAt s 0 = mkByte0 h.fin h.rsv1 h.rsv2 h.rsv3 h.opCode)
    (hmask : maskBit (byteAt s 1) = h.isMasked)
    (hsize : readLength (lengthField (byteAt s 1)) s = .size h.payloadSize off)
    (hkey : readKey h.isMasked s off = some (h.mask, n)) : hdrDecode s = .success h n := by
  simp [hdrDecode, Nat.not_lt.mpr hlen, h0, hop, hsize, hmask, hkey]

theorem two_le_length_headerBytes (h : Header) : 2 ≤ (headerBytes h).length := by
  unfold headerBytes lengthBytes; split_ifs <;> simp

/-- HDR_DECODE reads back the header whose bytes it is given, and consumes just those (40_header.md R107). -/
theorem hdrDecode_headerBytes {h : Header} (hw : h.WellFormed) :
    hdrDecode (headerBytes h) = .success h (headerBytes h).length := by
  obtain ⟨hop, hkey, hsize⟩ := hw
  exact hdrDecode_of_fields (two_le_length_headerBytes h) hop rfl (maskBit_lengthBytes _ _ _ _)
    (readLength_lengthBytes _ _ hsize _) (readKey_keyBytes _ _ hkey)

theorem hdrDecode_headerBytes_append {h : Header} (hw : h.WellFormed) (t : Bytes) :
    hdrDecode (headerBytes h ++ t) = .success h (headerBytes h).length := by
  rw [hdrDecode_append (by simp [hdrDecode_headerBytes hw]), hdrDecode_headerBytes hw]

end Sys2Proof.Machine
end

section
/-! DEC_FEED row by row: one equation per row of 43_decoder.md R163, and what feeding more bytes afterwards gives
(R154). -/
namespace Sys2Proof.Machine

section Rows
variable {cap : Option Nat} {st : DecoderState} {rest : Bytes} {fs : List Frame} {h : Header} {n : Nat}

theorem feedStep_of_incomplete (hst : st.status = .awaitingHeader) (hd : hdrDecode rest = .incomplete) :
    feedStep cap st rest fs = .stop (bufferRest cap st rest fs) := by
  simp only [feedStep, hst, hd]

theorem feedStep_of_success (hst : st.status = .awaitingHeader) (hd : hdrDecode rest = .success h n) :
    feedStep cap st rest fs =
      .more { status := .awaitingPayload, pending := [], currentHeader := some h } (rest.drop n) fs := by
  simp only [feedStep, hst, hd]

theorem feedStep_of_structuralError (hst : st.status = .awaitingHeader) (hi : hdrDecode rest ≠ .incomplete)
    (hs : ∀ h n, hdrDecode rest ≠ .success h n) :
    feedStep cap st rest fs = .stop (.commit .failed true fs rest.length) := by
  simp only [feedStep, hst]
  cases hd : hdrDecode rest with
  | incomplete => exact absurd hd hi
  | success h n => exact absurd hd (hs h n)
  | invalidOpCode => rfl
  | payloadSizeInflatedEncoding => rfl
  | payloadSizeEighthByteMSBNotZero => rfl

theorem feedStep_of_noHeader (hst : st.status = .awaitingPayload) (hh : st.currentHeader = none) :
    feedStep cap st rest fs = .stop .noHeader := by
  simp only [feedStep, hst, hh]

theorem feedStep_of_shortPayload (hst : st.status = .awaitingPayload) (hh : st.currentHeader = some h)
    (hl : rest.length < h.payloadSize.toNat) : feedStep cap st rest fs = .stop (bufferRest cap st rest fs) := by
  simp only [feedStep, hst, hh, hl, if_true]

theorem feedStep_of_payload (hst : st.status = .awaitingPayload) (hh : st.currentHeader = some h)
    (hl : h.payloadSize.toNat ≤ rest.length) :
    feedStep cap st rest fs =
      .more .initial (rest.drop h.payloadSize.toNat) (fs ++ [mkFrame h (rest.take h.payloadSize.toNat)]) := by
  simp only [feedStep, hst, hh, Nat.not_lt.mpr hl, if_false]

theorem feedStep_of_errored (hst : st.status = .errored) :
    feedStep cap st rest fs = .stop (.commit st true fs rest.length) := by
  simp only [feedStep, hst]

theorem feedRun_of_stop {e : FeedEnd} (hs : feedStep cap st rest fs = .stop e) : feedRun cap st rest fs = e := by
  rw [feedRun_eq, hs]

theorem feedRun_of_more {st' : DecoderState} {rest' : Bytes} {fs' : List Frame}
    (hs : feedStep cap st rest fs = .more st' rest' fs') :
    feedRun cap st rest fs = feedRun cap st' rest' fs' := by
  rw [feedRun_eq, hs]

/-- What `pending` holds is not looked at again: it stands in front of `rest` already. -/
theorem feedRun_pending (hst : st.status ≠ .errored) (p : Bytes) :
    feedRun cap { st with pending := p } rest fs = feedRun cap st rest fs := by
  have hstep : feedStep cap { st with pending := p } rest fs = feedStep cap st rest fs := by
    cases hs : st.status with
    | awaitingHeader => simp only [feedStep, hs, bufferRest]
    | awaitingPayload => simp only [feedStep, hs, bufferRest]
    | errored => exact absurd hs hst
  rw [feedRun_eq, hstep, ← feedRun_eq]

end Rows

/-! ### Feeding more bytes afterwards, with `PENDING_CAP = ∞` -/

/-- What a DEC_FEED that ended as `e` would have given, had its chunk gone on with the bytes `b`: a decoder without
error is fed `b` next; after an error `b` only counts as extra bytes. -/
def FeedEnd.thenFeed (b : Bytes) : FeedEnd → FeedEnd
  | .commit st false fs _ => (feed none st b).withFrames fs
  | .commit st true fs n => .commit st true fs (n + b.length)
  | .overflow => .overflow
  | .noHeader => .noHeader

/-- Bytes kept at a buffering point are taken up again by the next call. -/
theorem bufferRest_thenFeed {st : DecoderState} (hst : st.status ≠ .errored) (a b : Bytes) (fs : List Frame) :
    (bufferRest none st a fs).thenFeed b = feedRun none st (a ++ b) fs := by
  have hfeed : feed none { st with pending := a } b = feedRun none st (a ++ b) [] := by
    rw [feed_eq, if_neg hst, feedRun_pending hst]
  rw [feedRun_withFrames none st (a ++ b) fs, ← hfeed]
  rfl

/-- Feeding `a ++ b` is feeding `a` and then `b` (43_decoder.md R154). -/
theorem feedRun_append (st : DecoderState) (a b : Bytes) (fs : List Frame) :
    feedRun none st (a ++ b) fs = (feedRun none st a fs).thenFeed b := by
  induction hrows : rowsLeft st a using Nat.strong_induction_on generalizing st a fs with
  | _ rows ih =>
    subst hrows
    -- A row that goes on with the bytes `a.drop n` goes on with `a.drop n ++ b`.
    have goOn : ∀ {st' fs' n}, n ≤ a.length → feedStep none st a fs = .more st' (a.drop n) fs' →
        feedStep none st (a ++ b) fs = .more st' ((a ++ b).drop n) fs' →
        feedRun none st (a ++ b) fs = (feedRun none st a fs).thenFeed b := by
      intro st' fs' n hn ha hab
      rw [feedRun_of_more ha, feedRun_of_more hab, List.drop_append_of_le_length hn]
      exact ih _ (feedStep_decreases ha) _ _ _ rfl
    cases hst : st.status with
    | errored =>
      rw [feedRun_of_stop (feedStep_of_errored hst), feedRun_of_stop (feedStep_of_errored hst)]
      simp [FeedEnd.thenFeed]
    | awaitingHeader =>
      by_cases hi : hdrDecode a = .incomplete
      · rw [feedRun_of_stop (feedStep_of_incomplete hst hi), bufferRest_thenFeed (by simp [hst])]
      · have hab := hdrDecode_append hi b
        by_cases hs : ∃ h n, hdrDecode a = .success h n
        · obtain ⟨h, n, hs⟩ := hs
          exact goOn (hdrDecode_consumed hs).2 (feedStep_of_success hst hs) (feedStep_of_success hst (hab.trans hs))
        · have hs : ∀ h n, hdrDecode a ≠ .success h n := fun h n e => hs ⟨h, n, e⟩
          rw [feedRun_of_stop (feedStep_of_structuralError hst hi hs),
            feedRun_of_stop (feedStep_of_structuralError hst (hab ▸ hi) (hab ▸ hs))]
          simp [FeedEnd.thenFeed]
    | awaitingPayload =>
      cases hh : st.currentHeader with
      | none =>
        rw [feedRun_of_stop (feedStep_of_noHeader hst hh), feedRun_of_stop (feedStep_of_noHeader hst hh)]
        rfl
      | some h =>
        by_cases hl : a.length < h.payloadSize.toNat
        · rw [feedRun_of_stop (feedStep_of_shortPayload hst hh hl), bufferRest_thenFeed (by simp [hst])]
        · have hl : h.payloadSize.toNat ≤ a.length := Nat.not_lt.mp hl
          refine goOn hl (feedStep_of_payload hst hh hl) ?_
          rw [feedStep_of_payload hst hh (by simp; omega), List.take_append_of_le_length hl]

/-- Feeding `a ++ b` in one call is feeding `a` and then `b` (43_decoder.md R154). -/
theorem feed_append (st : DecoderState) (a b : Bytes) : feed none st (a ++ b) = (feed none st a).thenFeed b := by
  rw [feed_eq, feed_eq]
  split
  · simp [FeedEnd.thenFeed]
  · rw [← List.append_assoc, feedRun_append]

/-- If a call that went on with `b` ends without error, so did the call before `b` and the one on `b`, and together they
deliver its frames. -/
theorem FeedEnd.thenFeed_eq_commit {e : FeedEnd} {b : Bytes} {st : DecoderState} {fs : List Frame} {n : Nat}
    (he : e.thenFeed b = .commit st false fs n) :
    ∃ st₁ fs₁ n₁ fs₂, e = .commit st₁ false fs₁ n₁ ∧ feed none st₁ b = .commit st false fs₂ n ∧ fs = fs₁ ++ fs₂ := by
  cases e with
  | overflow => cases he
  | noHeader => cases he
  | commit st₁ err fs₁ n₁ =>
    cases err with
    | true => cases he
    | false =>
      simp only [FeedEnd.thenFeed] at he
      cases hb : feed none st₁ b with
      | overflow => rw [hb] at he; cases he
      | noHeader => rw [hb] at he; cases he
      | commit st₂ err₂ fs₂ n₂ =>
        rw [hb] at he
        cases he
        exact ⟨_, _, _, _, rfl, hb, rfl⟩

/-- A decoder that a call has left without error has nothing more to do before new bytes come (43_decoder.md R156). -/
theorem feed_nil_of_commit {st st' : DecoderState} {a : Bytes} {fs : List Frame} {n : Nat}
    (ha : feed none st a = .commit st' false fs n) : feed none st' [] = .commit st' false [] n := by
  have happ := feed_append st a []
  rw [List.append_nil, ha] at happ
  obtain ⟨st₁, fs₁, n₁, fs₂, he, hb, hfs⟩ := FeedEnd.thenFeed_eq_commit happ.symm
  cases he
  rwa [List.self_eq_append_right.mp hfs] at hb

/-! ### DEC_FEED on the block -/

theorem setDecoder_of_getElem? {s : State} {d : Nat} {st : DecoderState} (hd : s.decoders[d]? = some st) :
    s.setDecoder d st = s := by
  obtain ⟨hlt, rfl⟩ := List.getElem?_eq_some_iff.mp hd
  simp [State.setDecoder]

/-- DEC_FEED writes what the decoder's loop commits (43_decoder.md R164). -/
theorem exec_decFeed_of_commit {s : State} {d : Nat} {st st' : DecoderState} {chunk : Bytes} {e : Bool}
    {fs : List Frame} {n : Nat} (hs : s.fault = .none) (hd : s.decoders[d]? = some st)
    (hf : feed s.pendingCap st chunk = .commit st' e fs n) :
    exec (.decFeed d chunk) s = .next ((s.setDecoder d st').respond (.decFeed e fs n)) := by
  simp only [exec, execDecFeed, withDecoder_of_live hs hd, hf]

/-- If one call on all the bytes ends without error, so does one call on each chunk; they deliver the same frames and
leave the same decoder state (43_decoder.md R154). The decoder has nothing left to do when they begin. -/
theorem feedAll_of_feed_flatten {s : State} {d : Nat} {chunks : List Bytes} {st st' : DecoderState}
    {fs : List Frame} {n k : Nat} (hs : s.fault = .none) (hcap : s.pendingCap = none)
    (hd : s.decoders[d]? = some st) (hidle : feed none st [] = .commit st false [] k)
    (hf : feed none st chunks.flatten = .commit st' false fs n) :
    ∃ rs, feedAll d chunks s = some { s.setDecoder d st' with responses := s.responses ++ rs } ∧
      rs.flatMap Response.frames = fs ∧ ∀ r ∈ rs, r.parseError = false := by
  induction chunks generalizing s st fs k with
  | nil =>
    rw [List.flatten_nil, hidle] at hf
    cases hf
    exact ⟨[], by simp [feedAll, setDecoder_of_getElem? hd], rfl, by simp⟩
  | cons c cs ih =>
    rw [List.flatten_cons, feed_append] at hf
    obtain ⟨st₁, fs₁, n₁, fs₂, hc, hcs, rfl⟩ := FeedEnd.thenFeed_eq_commit hf
    have hlt : d < s.decoders.length := (List.getElem?_eq_some_iff.mp hd).1
    have hexec := exec_decFeed_of_commit hs hd (hcap ▸ hc)
    obtain ⟨rs, hall, hframes, herr⟩ :=
      ih (s := (s.setDecoder d st₁).respond (.decFeed false fs₁ n₁)) hs hcap (by simp [hlt])
        (feed_nil_of_commit hc) hcs
    refine ⟨.decFeed false fs₁ n₁ :: rs, ?_, by simp [hframes, Response.frames], ?_⟩
    · simp only [feedAll, hexec, hall]
      simp [State.setDecoder, State.respond]
    · simpa [Response.parseError] using herr

end Sys2Proof.Machine
end

section
/-! The wire bytes of frames through DEC_FEED (43_decoder.md R147, R151). -/
namespace Sys2Proof.Machine

theorem maskFrom_maskFrom (k : MaskKey) (i : Nat) (data : Bytes) : maskFrom k i (maskFrom k i data) = data := by
  induction data generalizing i with
  | nil => rfl
  | cons b rest ih => simp [maskFrom, ih]

/-- Masking twice with one key is the identity (41_masking.md R115). -/
@[simp] theorem applyMask_applyMask (data : Bytes) (k : MaskKey) : applyMask (applyMask data k) k = data :=
  maskFrom_maskFrom k 0 data

/-- The payload bytes of a frame on the wire, masked if its header says so. -/
def Frame.wirePayload (f : Frame) : Bytes :=
  if f.header.isMasked then applyMask f.payload f.header.mask else f.payload

theorem Frame.wire_eq (f : Frame) : f.wire = headerBytes f.header ++ f.wirePayload := rfl

@[simp] theorem Frame.length_wirePayload (f : Frame) : f.wirePayload.length = f.payload.length := by
  unfold Frame.wirePayload; split <;> simp

/-- Unmasking the wire payload of a frame gives the frame back. -/
@[simp] theorem mkFrame_wirePayload (f : Frame) : mkFrame f.header f.wirePayload = f := by
  obtain ⟨h, p⟩ := f
  unfold mkFrame Frame.wirePayload
  split <;> simp [*]

/-- One frame's wire bytes take the loop from reset to reset: a header row, then a payload row. -/
theorem feedRun_wire_append (cap : Option Nat) {f : Frame} (hf : f.WellFormed) (rest : Bytes) (fs : List Frame) :
    feedRun cap .initial (f.wire ++ rest) fs = feedRun cap .initial rest (fs ++ [f]) := by
  obtain ⟨hw, hlen⟩ := hf
  have hsize : f.header.payloadSize.toNat = f.wirePayload.length := by simp [hlen]
  rw [Frame.wire_eq, List.append_assoc,
    feedRun_of_more (feedStep_of_success rfl (hdrDecode_headerBytes_append hw _)), List.drop_left,
    feedRun_of_more (feedStep_of_payload rfl rfl (by simp [hlen])), hsize, List.drop_left, List.take_left,
    mkFrame_wirePayload]

/-- No bytes: nothing to buffer, whatever `PENDING_CAP` is. -/
theorem feedRun_initial_nil (cap : Option Nat) (fs : List Frame) :
    feedRun cap .initial [] fs = .commit .initial false fs 0 := by
  have hfits : fitsCap cap 0 = true := by cases cap <;> simp [fitsCap]
  rw [feedRun_of_stop (feedStep_of_incomplete rfl rfl)]
  simp [bufferRest, hfits, DecoderState.initial]

/-- The wire bytes of well-formed frames take the loop from reset to reset and complete those frames. -/
theorem feedRun_wires (cap : Option Nat) {frames : List Frame} (hw : ∀ f ∈ frames, f.WellFormed) (fs : List Frame) :
    feedRun cap .initial (frames.flatMap Frame.wire) fs = .commit .initial false (fs ++ frames) 0 := by
  induction frames generalizing fs with
  | nil => simp [feedRun_initial_nil]
  | cons f frames ih =>
    obtain ⟨hf, hw⟩ := List.forall_mem_cons.mp hw
    rw [List.flatMap_cons, feedRun_wire_append cap hf, ih hw, List.append_assoc, List.singleton_append]

/-- DEC_FEED of the wire bytes of well-formed frames on a decoder at reset delivers those frames. -/
theorem feed_wires (cap : Option Nat) {frames : List Frame} (hw : ∀ f ∈ frames, f.WellFormed) :
    feed cap .initial (frames.flatMap Frame.wire) = .commit .initial false frames 0 :=
  feedRun_wires cap hw []

/-- Settles O44: each frame takes the loop from reset to reset, by induction over the frames. -/
theorem wireFramesAreDeliveredInOneCall : Obligations.WireFramesAreDeliveredInOneCall := by
  intro s d frames hs hd hw
  have hself : s.setDecoder d .initial = s := setDecoder_of_getElem? hd
  rw [exec_decFeed_of_commit hs hd (feed_wires s.pendingCap hw), hself]
  rfl

/-- Settles O45: one call on all the bytes delivers the frames (`feed_wires`), and so do the calls on the chunks. -/
theorem wireFramesAreDeliveredHoweverSplit : Obligations.WireFramesAreDeliveredHoweverSplit := by
  intro s d frames chunks hs hcap hd hw hcut
  have hself : s.setDecoder d .initial = s := setDecoder_of_getElem? hd
  have hidle : feed none .initial [] = .commit .initial false [] 0 := feedRun_initial_nil none []
  have hwhole : feed none .initial chunks.flatten = .commit .initial false frames 0 := hcut ▸ feed_wires none hw
  obtain ⟨rs, hall, hframes, herr⟩ := feedAll_of_feed_flatten hs hcap hd hidle hwhole
  rw [hself] at hall
  exact ⟨rs, hall, hframes, herr⟩

end Sys2Proof.Machine
end

/-! ## Family 10_state: accepted header bytes are minimal, and every step keeps the invariant of the block -/

section
/-! What HDR_DECODE accepts is what HDR_ENCODE writes (40_header.md R94, R96), and what it finds incomplete is short. -/
namespace Sys2Proof.Machine

/-! ### Writing back a big-endian field that was read -/

/-- Dropping the digits read leaves the accumulator they were read from. -/
theorem foldl_bytes_div (s : Bytes) (acc : Nat) :
    s.foldl (fun acc b => acc * 256 + b.toNat) acc / 256 ^ s.length = acc := by
  induction s generalizing acc with
  | nil => simp
  | cons b s ih =>
    rw [List.foldl_cons, List.length_cons, pow_succ, ← Nat.div_div_eq_div_mul, ih]
    omega

theorem bigEndian_lt (s : Bytes) : bigEndian s < 256 ^ s.length :=
  (Nat.div_eq_zero_iff_lt (by positivity)).mp (foldl_bytes_div s 0)

/-- The first byte of a field bounds its value. -/
theorem bigEndian_cons_lt (b : Byte) (s : Bytes) : bigEndian (b :: s) < (b.toNat + 1) * 256 ^ s.length := by
  have hdiv : bigEndian (b :: s) / 256 ^ s.length = b.toNat := by
    simpa [bigEndian] using foldl_bytes_div s b.toNat
  exact (Nat.div_lt_iff_lt_mul (by positivity)).mp (by omega)

theorem memWrite_foldl (s : Bytes) (acc : Nat) :
    memWrite s.length (s.foldl (fun acc b => acc * 256 + b.toNat) acc) = s := by
  induction s generalizing acc with
  | nil => rfl
  | cons b s ih =>
    have hdigit : BitVec.ofNat 8 (acc * 256 + b.toNat) = b :=
      BitVec.eq_of_toNat_eq (by rw [BitVec.toNat_ofNat]; omega)
    rw [List.foldl_cons, List.length_cons, memWrite, ih, Nat.shiftRight_eq_div_pow, pow_mul]
    exact congrArg (· :: s) ((congrArg _ (foldl_bytes_div s _)).trans hdigit)

/-- Writing back a field of `n` bytes gives those bytes (20_memory.md R41). -/
theorem memWrite_memRead {s : Bytes} {i n : Nat} (h : i + n ≤ s.length) :
    memWrite n (memRead s i n) = (s.drop i).take n := by
  have hlen : ((s.drop i).take n).length = n := by simp; omega
  simpa [hlen, memRead, bigEndian] using memWrite_foldl ((s.drop i).take n) 0

theorem memRead_lt {s : Bytes} {i n : Nat} (h : i + n ≤ s.length) : memRead s i n < 256 ^ n := by
  have hlen : ((s.drop i).take n).length = n := by simp; omega
  simpa [hlen, memRead] using bigEndian_lt ((s.drop i).take n)

/-- A 64-bit field whose first bit is clear is below 2^63 (40_header.md R90). -/
theorem memRead_lt_of_msb {b0 b1 b2 : Byte} {t : Bytes} (hmsb : b2.getLsbD 7 = false) (h : 7 ≤ t.length) :
    memRead (b0 :: b1 :: b2 :: t) 2 8 < 2 ^ 63 := by
  have hb : b2.toNat < 128 := by revert b2; decide
  have hlen : (t.take 7).length = 7 := by simp; omega
  have hlt := bigEndian_cons_lt b2 (t.take 7)
  rw [hlen] at hlt
  have hread : memRead (b0 :: b1 :: b2 :: t) 2 8 = bigEndian (b2 :: t.take 7) := rfl
  omega

/-! ### The fields of an accepted header -/

/-- A 16-bit size that was read is written back as the same two bytes (40_header.md R88). -/
theorem readLength16_size {s : Bytes} {ps : BitVec 64} {off : Nat} (e : readLength16 s = .size ps off) (m : Bool) :
    ps.toNat < 2 ^ 63 ∧ off = 4 ∧ 4 ≤ s.length ∧ lengthBytes m ps = mkByte1 m 126 :: (s.drop 2).take 2 := by
  unfold readLength16 at e
  split_ifs at e with hlen hmin
  cases e
  have hlen : 2 + 2 ≤ s.length := by omega
  have hlt := memRead_lt hlen
  rw [← memWrite_memRead hlen]
  generalize memRead s 2 2 = v at *
  have hv : (BitVec.ofNat 64 v).toNat = v := by rw [BitVec.toNat_ofNat]; omega
  refine ⟨by omega, rfl, hlen, ?_⟩
  rw [lengthBytes, hv, if_neg (by omega), if_pos (by omega)]

/-- A 64-bit size that was read is written back as the same eight bytes (40_header.md R89, R90, R91). -/
theorem readLength64_size {b0 b1 : Byte} {t : Bytes} {ps : BitVec 64} {off : Nat}
    (e : readLength64 (b0 :: b1 :: t) = .size ps off) (m : Bool) :
    ps.toNat < 2 ^ 63 ∧ off = 10 ∧ 8 ≤ t.length ∧ lengthBytes m ps = mkByte1 m 127 :: t.take 8 := by
  unfold readLength64 at e
  split_ifs at e with hlen hmsb hmin
  cases e
  have hlen : 2 + 8 ≤ (b0 :: b1 :: t).length := by omega
  have hlt : memRead (b0 :: b1 :: t) 2 8 < 2 ^ 63 := by
    cases t with
    | nil => simp at hlen
    | cons b2 t => exact memRead_lt_of_msb (Bool.not_eq_true _ ▸ hmsb) (by simp at hlen; omega)
  have hwrite : memWrite 8 (memRead (b0 :: b1 :: t) 2 8) = t.take 8 := memWrite_memRead hlen
  rw [← hwrite]
  generalize memRead (b0 :: b1 :: t) 2 8 = v at *
  have hv : (BitVec.ofNat 64 v).toNat = v := by rw [BitVec.toNat_ofNat]; omega
  refine ⟨by omega, rfl, by simp at hlen; omega, ?_⟩
  rw [lengthBytes, hv, if_neg (by omega), if_neg (by omega)]

/-- A payload size that was read is below 2^63, and the bytes it was read from are its minimal form (30_encoding.md R66). -/
theorem readLength_size {b0 b1 : Byte} {t : Bytes} {ps : BitVec 64} {off : Nat}
    (e : readLength (lengthField b1) (b0 :: b1 :: t) = .size ps off) :
    ps.toNat < 2 ^ 63 ∧ off ≤ 10 ∧ off ≤ t.length + 2 ∧
      (b0 :: b1 :: t).take off = b0 :: lengthBytes (maskBit b1) ps := by
  have hb1 := mkByte1_fields b1
  unfold readLength at e
  split_ifs at e with h7 h16
  · cases e
    have hps : ((lengthField b1).setWidth 64).toNat = (lengthField b1).toNat := by
      rw [BitVec.toNat_setWidth]; omega
    have hback : ((lengthField b1).setWidth 64).setWidth 7 = lengthField b1 :=
      BitVec.eq_of_toNat_eq (by rw [BitVec.toNat_setWidth, hps]; omega)
    refine ⟨by omega, by omega, by omega, ?_⟩
    simp [lengthBytes, hps, h7, hback, hb1]
  · have hlf : lengthField b1 = 126 := BitVec.eq_of_toNat_eq h16
    obtain ⟨hsize, rfl, hlen, hbytes⟩ := readLength16_size e (maskBit b1)
    refine ⟨hsize, by omega, hlen, ?_⟩
    rw [hbytes, ← hlf, hb1]
    rfl
  · have hlf : lengthField b1 = 127 := BitVec.eq_of_toNat_eq (show _ = 127 by omega)
    obtain ⟨hsize, rfl, hlen, hbytes⟩ := readLength64_size e (maskBit b1)
    refine ⟨hsize, by omega, by omega, ?_⟩
    rw [hbytes, ← hlf, hb1]
    rfl

theorem drop_eq_byteAt_cons {s : Bytes} {i : Nat} (hi : i < s.length) : s.drop i = byteAt s i :: s.drop (i + 1) := by
  rw [List.drop_eq_getElem_cons hi, byteAt, List.getD_eq_getElem _ _ hi]

/-- A key that was read is zero when absent, and the bytes it was read from are its own (40_header.md R92, R98). -/
theorem readKey_some {m : Bool} {s : Bytes} {off n : Nat} {k : MaskKey} (hoff : off ≤ s.length)
    (e : readKey m s off = some (k, n)) :
    (m = false → k = MaskKey.zero) ∧ n ≤ s.length ∧ s.take n = s.take off ++ keyBytes m k := by
  cases m with
  | false => cases e; simp [keyBytes, hoff]
  | true =>
    unfold readKey at e
    rw [if_pos rfl] at e
    split_ifs at e with hlen
    cases e
    have hlen : off + 4 ≤ s.length := by omega
    refine ⟨by simp, hlen, ?_⟩
    rw [List.take_add, drop_eq_byteAt_cons (by omega), drop_eq_byteAt_cons (by omega), drop_eq_byteAt_cons (by omega),
      drop_eq_byteAt_cons (by omega)]
    rfl

/-- What HDR_DECODE has checked when it accepts (40_header.md R85); `hdrDecode_of_fields` is the converse. -/
theorem fields_of_hdrDecode {b0 b1 : Byte} {t : Bytes} {h : Header} {n : Nat}
    (e : hdrDecode (b0 :: b1 :: t) = .success h n) :
    validOpcode h.opCode = true ∧ b0 = mkByte0 h.fin h.rsv1 h.rsv2 h.rsv3 h.opCode ∧ maskBit b1 = h.isMasked ∧
      ∃ off, readLength (lengthField b1) (b0 :: b1 :: t) = .size h.payloadSize off ∧
        readKey h.isMasked (b0 :: b1 :: t) off = some (h.mask, n) := by
  cases hop : validOpcode (opCodeField b0) with
  | false => simp [hdrDecode, hop] at e
  | true =>
    cases hl : readLength (lengthField b1) (b0 :: b1 :: t) with
    | incomplete => simp [hdrDecode, hop, hl] at e
    | inflated => simp [hdrDecode, hop, hl] at e
    | msbNotZero => simp [hdrDecode, hop, hl] at e
    | size ps off =>
      cases hk : readKey (maskBit b1) (b0 :: b1 :: t) off with
      | none => simp [hdrDecode, hop, hl, hk] at e
      | some key =>
        simp only [hdrDecode, byteAt_cons_zero, byteAt_cons_succ, hop, hl, hk] at e
        cases e
        exact ⟨hop, (mkByte0_fields b0).symm, rfl, off, rfl, hk⟩

/-- An accepted header is well-formed, and its bytes are those HDR_ENCODE writes (10_state.md R23, 40_header.md R94). -/
theorem hdrDecode_success {s : Bytes} {h : Header} {n : Nat} (e : hdrDecode s = .success h n) :
    h.WellFormed ∧ s.take n = headerBytes h := by
  match s, e with
  | b0 :: b1 :: t, e =>
    obtain ⟨hop, hb0, hmask, off, hl, hk⟩ := fields_of_hdrDecode e
    obtain ⟨hsize, -, hoff, htake⟩ := readLength_size hl
    obtain ⟨hzero, -, hkey⟩ := readKey_some hoff hk
    refine ⟨⟨hop, hzero, hsize⟩, ?_⟩
    rw [hkey, htake, hmask, headerBytes, ← hb0, List.cons_append]

/-- `EncSize` is the number of bytes HDR_ENCODE writes (40_header.md R103). -/
theorem length_headerBytes (h : Header) : (headerBytes h).length = encSize h.payloadSize h.isMasked := by
  have hkey : (keyBytes h.isMasked h.mask).length = if h.isMasked then 4 else 0 := by
    unfold keyBytes; split <;> rfl
  rw [headerBytes, List.length_cons, List.length_append, hkey, encSize]
  unfold lengthBytes
  split_ifs <;> simp <;> omega

/-- What HDR_DECODE consumes is the encoded size of the header it accepts (40_header.md R108). -/
theorem hdrDecode_consumed_eq {s : Bytes} {h : Header} {n : Nat} (e : hdrDecode s = .success h n) :
    n = encSize h.payloadSize h.isMasked := by
  rw [← length_headerBytes, ← (hdrDecode_success e).2, List.length_take_of_le (hdrDecode_consumed e).2]

/-- The sizes a header can have (30_encoding.md R66). -/
theorem encSize_mem (ps : BitVec 64) (m : Bool) : encSize ps m ∈ [2, 4, 6, 8, 10, 14] := by
  simp only [encSize, List.mem_cons, List.not_mem_nil, or_false]
  split_ifs <;> omega

theorem encSize_bounds (ps : BitVec 64) (m : Bool) : 2 ≤ encSize ps m ∧ encSize ps m ≤ 14 := by
  have h := encSize_mem ps m
  simp only [List.mem_cons, List.not_mem_nil, or_false] at h
  omega

theorem length_lt_of_readLength_incomplete {lf : BitVec 7} {s : Bytes} (e : readLength lf s = .incomplete) :
    s.length < 10 := by
  unfold readLength readLength16 readLength64 at e
  split_ifs at e <;> omega

theorem length_lt_of_readKey_none {m : Bool} {s : Bytes} {off : Nat} (e : readKey m s off = none) :
    s.length < off + 4 := by
  unfold readKey at e
  split_ifs at e
  assumption

/-- An incomplete header is at most 13 bytes long (10_state.md R31). -/
theorem length_le_of_incomplete {s : Bytes} (e : hdrDecode s = .incomplete) : s.length ≤ 13 := by
  match s, e with
  | [], _ => simp
  | [_], _ => simp
  | b0 :: b1 :: t, e =>
    cases hop : validOpcode (opCodeField b0) with
    | false => simp [hdrDecode, hop] at e
    | true =>
      cases hl : readLength (lengthField b1) (b0 :: b1 :: t) with
      | incomplete => exact (length_lt_of_readLength_incomplete hl).le.trans (by omega)
      | inflated => simp [hdrDecode, hop, hl] at e
      | msbNotZero => simp [hdrDecode, hop, hl] at e
      | size ps off =>
        cases hk : readKey (maskBit b1) (b0 :: b1 :: t) off with
        | some key => simp [hdrDecode, hop, hl, hk] at e
        | none =>
          have hoff := (readLength_size hl).2.1
          have hlen := length_lt_of_readKey_none hk
          omega

/-- Settles O17: the length field and the key of an accepted header were read from the bytes HDR_ENCODE writes. -/
theorem decodedHeaderReencodesToItsBytes : Obligations.DecodedHeaderReencodesToItsBytes := by
  intro bs h n e
  obtain ⟨hw, htake⟩ := hdrDecode_success e
  have hn := hdrDecode_consumed_eq e
  refine ⟨?_, hw, hn, (hdrDecode_consumed e).2, ?_⟩
  · intro s hs
    rw [← e]
    exact answer_of_live hs _
  · intro s hs
    simp [exec, execHdrEncode, whenLive_of_live hs, hw.opcode_valid, htake, ← hn, State.respond]

end Sys2Proof.Machine
end

section
/-! DEC_FEED keeps what always holds of a decoder, and delivers well-formed frames (10_state.md R24, R26 to R33). -/
namespace Sys2Proof.Machine

theorem fitsCap_zero (cap : Option Nat) : fitsCap cap 0 = true := by cases cap <;> simp [fitsCap]

/-- A decoder at reset (10_state.md R37). -/
theorem initial_inv (cap : Option Nat) : DecoderState.initial.Inv cap where
  header_iff := by simp [DecoderState.initial]
  header_wf := by simp [DecoderState.initial]
  pending_header := fun _ => ⟨rfl, Nat.zero_le _⟩
  pending_payload := by simp [DecoderState.initial]
  errored_empty := fun _ => rfl
  pending_fits := fitsCap_zero cap

/-- The terminal decoder state (10_state.md R33). -/
theorem failed_inv (cap : Option Nat) : DecoderState.failed.Inv cap where
  header_iff := by simp [DecoderState.failed]
  header_wf := by simp [DecoderState.failed]
  pending_header := by simp [DecoderState.failed]
  pending_payload := by simp [DecoderState.failed]
  errored_empty := fun _ => rfl
  pending_fits := fitsCap_zero cap

/-- What holds of a decoder inside the loop of DEC_FEED, where `pending` is already part of the bytes to interpret. -/
structure DecoderState.LoopInv (st : DecoderState) : Prop where
  header_iff : st.currentHeader.isSome = true ↔ st.status = .awaitingPayload
  header_wf : ∀ h, st.currentHeader = some h → h.WellFormed
  live : st.status ≠ .errored

theorem initial_loopInv : DecoderState.initial.LoopInv where
  header_iff := (initial_inv none).header_iff
  header_wf := (initial_inv none).header_wf
  live := by simp [DecoderState.initial]

/-- After a header row (43_decoder.md R144). -/
theorem awaitingPayload_loopInv {h : Header} (hw : h.WellFormed) :
    ({ status := .awaitingPayload, pending := [], currentHeader := some h } : DecoderState).LoopInv where
  header_iff := by simp
  header_wf := by rintro _ ⟨⟩; exact hw
  live := by simp

theorem mkFrame_wf {h : Header} (hw : h.WellFormed) {p : Bytes} (hp : p.length = h.payloadSize.toNat) :
    (mkFrame h p).WellFormed where
  header_wf := hw
  payload_length := by unfold mkFrame; split <;> simpa using hp

section Loop
variable {cap : Option Nat} {st st' : DecoderState} {rest rest' : Bytes} {fs fs' : List Frame} {e : Bool} {n : Nat}

/-- What a buffering point commits, when the bytes it keeps are not enough for the header or the payload awaited. -/
theorem bufferRest_inv (hi : st.LoopInv)
    (hheader : st.status = .awaitingHeader → hdrDecode rest = .incomplete)
    (hpayload : ∀ h, st.currentHeader = some h → rest.length < h.payloadSize.toNat)
    (he : bufferRest cap st rest fs = .commit st' e fs' n) : st'.Inv cap ∧ fs' = fs := by
  unfold bufferRest at he
  split at he
  · next hfits =>
    cases he
    refine ⟨⟨hi.header_iff, hi.header_wf, fun hst => ?_, hpayload, fun hst => absurd hst hi.live, hfits⟩, rfl⟩
    exact ⟨hheader hst, length_le_of_incomplete (hheader hst)⟩
  · cases he

/-- A row that goes on keeps the loop's invariant, and the frames well-formed. -/
theorem feedStep_more_inv (hi : st.LoopInv) (hfs : ∀ f ∈ fs, f.WellFormed)
    (hs : feedStep cap st rest fs = .more st' rest' fs') : st'.LoopInv ∧ ∀ f ∈ fs', f.WellFormed := by
  unfold feedStep at hs
  split at hs
  · split at hs <;> cases hs
    next hd => exact ⟨awaitingPayload_loopInv (hdrDecode_success hd).1, hfs⟩
  · split at hs
    · cases hs
    · next h hh =>
      split at hs <;> cases hs
      next hl =>
      have hf : (mkFrame h (rest.take h.payloadSize.toNat)).WellFormed :=
        mkFrame_wf (hi.header_wf h hh) (List.length_take_of_le (Nat.not_lt.mp hl))
      refine ⟨initial_loopInv, fun f hmem => ?_⟩
      rcases List.mem_append.mp hmem with hmem | hmem
      · exact hfs f hmem
      · exact List.mem_singleton.mp hmem ▸ hf
  · cases hs

/-- A row that ends the call commits a decoder state that meets the invariant. -/
theorem feedStep_stop_inv (hi : st.LoopInv) (hs : feedStep cap st rest fs = .stop (.commit st' e fs' n)) :
    st'.Inv cap ∧ fs' = fs := by
  have hnone : st.status = .awaitingHeader → st.currentHeader = none := by
    intro hst
    have := hi.header_iff
    simpa [hst] using this
  cases hst : st.status with
  | errored => exact absurd hst hi.live
  | awaitingHeader =>
    by_cases hinc : hdrDecode rest = .incomplete
    · rw [feedStep_of_incomplete hst hinc] at hs
      exact bufferRest_inv hi (fun _ => hinc) (by simp [hnone hst]) (FeedStep.stop.inj hs)
    · by_cases hsucc : ∃ h n, hdrDecode rest = .success h n
      · obtain ⟨h, n, hsucc⟩ := hsucc
        rw [feedStep_of_success hst hsucc] at hs
        cases hs
      · rw [feedStep_of_structuralError hst hinc (fun h n hd => hsucc ⟨h, n, hd⟩)] at hs
        cases hs
        exact ⟨failed_inv cap, rfl⟩
  | awaitingPayload =>
    obtain ⟨h, hh⟩ := Option.isSome_iff_exists.mp (hi.header_iff.mpr hst)
    by_cases hl : rest.length < h.payloadSize.toNat
    · rw [feedStep_of_shortPayload hst hh hl] at hs
      exact bufferRest_inv hi (by simp [hst]) (by rintro _ h'; cases hh.symm.trans h'; exact hl)
        (FeedStep.stop.inj hs)
    · rw [feedStep_of_payload hst hh (Nat.not_lt.mp hl)] at hs
      cases hs

/-- The loop commits a decoder state that meets the invariant, and well-formed frames. -/
theorem feedRun_inv (hi : st.LoopInv) (hfs : ∀ f ∈ fs, f.WellFormed)
    (he : feedRun cap st rest fs = .commit st' e fs' n) : st'.Inv cap ∧ ∀ f ∈ fs', f.WellFormed := by
  induction hrows : rowsLeft st rest using Nat.strong_induction_on generalizing st rest fs with
  | _ rows ih =>
    subst hrows
    cases hs : feedStep cap st rest fs with
    | stop _ =>
      rw [feedRun_of_stop hs] at he
      subst he
      obtain ⟨hinv, rfl⟩ := feedStep_stop_inv hi hs
      exact ⟨hinv, hfs⟩
    | more st₁ rest₁ fs₁ =>
      rw [feedRun_of_more hs] at he
      obtain ⟨hi₁, hfs₁⟩ := feedStep_more_inv hi hfs hs
      exact ih _ (feedStep_decreases hs) hi₁ hfs₁ he rfl

/-- DEC_FEED keeps the invariant of the decoder it commits, and delivers well-formed frames (10_state.md R24). -/
theorem feed_inv {chunk : Bytes} (hi : st.Inv cap) (he : feed cap st chunk = .commit st' e fs' n) :
    st'.Inv cap ∧ ∀ f ∈ fs', f.WellFormed := by
  rw [feed_eq] at he
  split at he
  · cases he
    exact ⟨hi, by simp⟩
  · next hst => exact feedRun_inv ⟨hi.header_iff, hi.header_wf, hst⟩ (by simp) he

end Loop

/-- Settles O42: the first row of the loop finds no header to read. -/
theorem feedWithoutHeaderStops : Obligations.FeedWithoutHeaderStops := by
  intro s d st chunk hs hd hst hh
  have hlive : st.status ≠ .errored := by simp [hst]
  have hfeed : feed s.pendingCap st chunk = .noHeader := by
    rw [feed_eq, if_neg hlive, feedRun_of_stop (feedStep_of_noHeader hst hh)]
  simp only [exec, execDecFeed, withDecoder_of_live hs hd, hfeed]

end Sys2Proof.Machine
end

section
/-! What one operation can do to the block, and the invariant of the block that every step keeps. -/
namespace Sys2Proof.Machine

/-! ### Responses are well-formed -/

theorem hdrDecode_response_wf (bs : Bytes) : (Response.hdrDecode (hdrDecode bs)).WellFormed := by
  cases e : hdrDecode bs with
  | success h n =>
    have hn := hdrDecode_consumed_eq e
    exact ⟨(hdrDecode_success e).1, hn, hn ▸ encSize_bounds h.payloadSize h.isMasked⟩
  | incomplete => trivial
  | invalidOpCode => trivial
  | payloadSizeInflatedEncoding => trivial
  | payloadSizeEighthByteMSBNotZero => trivial

theorem hdrEncode_response_wf (h : Header) :
    (Response.hdrEncode (headerBytes h) (encSize h.payloadSize h.isMasked)).WellFormed :=
  ⟨length_headerBytes h, encSize_bounds _ _⟩

/-- A code that has no name answers with name number 0 (30_encoding.md R74). -/
theorem protocolNameResponse_wf (o : Option ProtocolName) :
    (protocolNameResponse o).WellFormed ∧ (protocolNameResponse o).isFault = false := by
  cases o <;> simp [protocolNameResponse, Response.WellFormed, Response.isFault]

/-- A code that has no name answers with name number 0 (30_encoding.md R75). -/
theorem ianaNameResponse_wf (o : Option IanaName) :
    (ianaNameResponse o).WellFormed ∧ (ianaNameResponse o).isFault = false := by
  cases o <;> simp [ianaNameResponse, Response.WellFormed, Response.isFault]

/-! ### What one operation can do -/

/-- The next states an operation `i` can answer from `s`: it responds, it raises a Fault, or it is one of the two Decoder
operations and writes its decoder (20_memory.md R44, 60_exceptions.md R170, 43_decoder.md R164). -/
inductive Effect (i : Instr) (s : State) : State → Prop where
  | responds (r : Response) (hw : r.WellFormed) (hf : r.isFault = false) : Effect i s (s.respond r)
  | raises (c : FaultCause) (hc : c ≠ .none) : Effect i s (s.raise c)
  | inits (d : Nat) (st : DecoderState) (hi : i = .decInit d) (hd : s.decoders[d]? = some st) :
      Effect i s ((s.setDecoder d .initial).respond .decInit)
  | feeds (d : Nat) (chunk : Bytes) (st st' : DecoderState) (e : Bool) (fs : List Frame) (n : Nat)
      (hi : i = .decFeed d chunk) (hd : s.decoders[d]? = some st)
      (hf : feed s.pendingCap st chunk = .commit st' e fs n) :
      Effect i s ((s.setDecoder d st').respond (.decFeed e fs n))

section
variable {i : Instr} {s t : State}

theorem effect_of_answer {r : Response} (h : s.answer r = .next t) (hw : r.WellFormed) (hf : r.isFault = false) :
    s.fault = .none ∧ Effect i s t := by
  obtain ⟨hs, rfl⟩ := answer_next h
  exact ⟨hs, .responds r hw hf⟩

theorem effect_of_hdrDecode {bs : Bytes} (h : s.answer (.hdrDecode (hdrDecode bs)) = .next t) :
    s.fault = .none ∧ Effect i s t :=
  effect_of_answer h (hdrDecode_response_wf bs) rfl

theorem execHdrEncode_effect {h : Header} {cap : Nat} (e : execHdrEncode h cap s = .next t) :
    s.fault = .none ∧ Effect i s t := by
  obtain ⟨hs, e⟩ := whenLive_next e
  split_ifs at e <;> cases e
  · exact ⟨hs, .raises _ (by decide)⟩
  · exact ⟨hs, .raises _ (by decide)⟩
  · exact ⟨hs, .responds _ (hdrEncode_response_wf h) rfl⟩

theorem execCsEncode_effect {code : BitVec 16} {cap : Nat} (e : execCsEncode code cap s = .next t) :
    s.fault = .none ∧ Effect i s t := by
  obtain ⟨hs, e⟩ := whenLive_next e
  split_ifs at e <;> cases e
  · exact ⟨hs, .responds _ ⟨rfl, .inl rfl⟩ rfl⟩
  · exact ⟨hs, .raises _ (by decide)⟩
  · exact ⟨hs, .responds _ ⟨length_memWrite _ _, .inr rfl⟩ rfl⟩

theorem execDecInit_effect {d : Nat} (e : execDecInit d s = .next t) : s.fault = .none ∧ Effect (.decInit d) s t := by
  obtain ⟨hs, ⟨st, hd, e⟩ | ⟨-, rfl⟩⟩ := withDecoder_next e
  · cases e
    exact ⟨hs, .inits d st rfl hd⟩
  · exact ⟨hs, .raises _ (by decide)⟩

theorem execDecFeed_effect {d : Nat} {chunk : Bytes} (e : execDecFeed d chunk s = .next t) :
    s.fault = .none ∧ Effect (.decFeed d chunk) s t := by
  obtain ⟨hs, ⟨st, hd, e⟩ | ⟨-, rfl⟩⟩ := withDecoder_next e
  · split at e <;> cases e
    · next hf => exact ⟨hs, .feeds d chunk st _ _ _ _ rfl hd hf⟩
    · exact ⟨hs, .raises _ (by decide)⟩
  · exact ⟨hs, .raises _ (by decide)⟩

/-- What one operation can do when it answers a next state. -/
theorem exec_effect (h : exec i s = .next t) : s.fault = .none ∧ Effect i s t := by
  cases i with
  | hdrDecode _ => exact effect_of_hdrDecode h
  | hdrEncode _ _ => exact execHdrEncode_effect h
  | hdrSize ps m => exact effect_of_answer h (encSize_mem ps m) rfl
  | maskApply _ _ => exact effect_of_answer h trivial rfl
  | csDecode _ => exact effect_of_answer h trivial rfl
  | csEncode _ _ => exact execCsEncode_effect h
  | csClassify _ => exact effect_of_answer h trivial rfl
  | csNamedProtocol _ => exact effect_of_answer h (protocolNameResponse_wf _).1 (protocolNameResponse_wf _).2
  | csNamedIana _ => exact effect_of_answer h (ianaNameResponse_wf _).1 (ianaNameResponse_wf _).2
  | decInit _ => exact execDecInit_effect h
  | decFeed _ _ => exact execDecFeed_effect h
  | frameContinuation _ _ _ _ _ => exact effect_of_hdrDecode h
  | frameText _ _ _ _ _ => exact effect_of_hdrDecode h
  | frameBinary _ _ _ _ _ => exact effect_of_hdrDecode h
  | frameConnectionClose _ _ _ _ _ => exact effect_of_hdrDecode h
  | framePing _ _ _ _ _ => exact effect_of_hdrDecode h
  | framePong _ _ _ _ _ => exact effect_of_hdrDecode h
  | frameInvalidOpcode _ _ _ _ _ _ => exact effect_of_hdrDecode h
  | len7 _ _ _ _ => exact effect_of_hdrDecode h
  | len16 _ _ _ => exact effect_of_hdrDecode h
  | len64 _ _ _ => exact effect_of_hdrDecode h

end

/-- What a step can do: nothing, a block reset, or a request taken while `FAULT = 0`, which is a reserved command or has
the effect of its operation. -/
theorem step_next {s t : State} (h : step s = .next t) :
    (s.inputs = [] ∧ t = s) ∨
    (∃ rest, s.inputs = .blockReset :: rest ∧ t = s.blockReset rest) ∨
    (∃ r rest, s.inputs = .request r :: rest ∧ s.fault = .none ∧
      (t = (s.accept r rest).raise .badCommand ∨
        ∃ i, decodeRequest r = .ok i ∧ Effect i (s.accept r rest) t)) := by
  unfold step at h
  split at h
  · next hin => cases h; exact .inl ⟨hin, rfl⟩
  · next rest hin => cases h; exact .inr (.inl ⟨rest, hin, rfl⟩)
  · next r rest hin =>
    obtain ⟨hs, h⟩ := whenLive_next h
    refine .inr (.inr ⟨r, rest, hin, hs, ?_⟩)
    unfold runRequest at h
    split at h
    · next i hi => exact .inr ⟨i, hi, (exec_effect h).2⟩
    · cases h; exact .inl rfl

/-! ### The invariant -/

theorem resetOf_inv (c : Config) : (State.resetOf c).Inv where
  decoders_inv := by
    intro st hst
    rw [List.eq_of_mem_replicate hst]
    exact initial_inv _
  responses_wf := by simp [State.resetOf]
  one_response_each := rfl
  fault_recorded := .inl ⟨rfl, by simp [State.resetOf]⟩

theorem blockReset_inv (s : State) (rest : List HostInput) : (s.blockReset rest).Inv := by
  obtain ⟨hdec, hwf, hone, hfault⟩ := resetOf_inv s.config
  exact ⟨hdec, hwf, hone, hfault⟩

section
variable {s t : State} {q : Request} {rest : List HostInput}

/-- A live block has no Fault on record (60_exceptions.md R170). -/
theorem State.Inv.no_fault_of_live (hs : s.Inv) (hlive : s.fault = .none) : ∀ r ∈ s.responses, r.isFault = false := by
  obtain ⟨-, h⟩ | ⟨h, -⟩ := hs.fault_recorded
  · exact h
  · exact absurd hlive h

/-- A request that ends with a response that is no fault. -/
theorem respond_inv (hs : s.Inv) (hlive : s.fault = .none) {ds : List DecoderState}
    (hds : ∀ st ∈ ds, st.Inv s.pendingCap) {r : Response} (hw : r.WellFormed) (hf : r.isFault = false) :
    (State.respond { s.accept q rest with decoders := ds } r).Inv where
  decoders_inv := hds
  responses_wf := by simpa [or_imp, forall_and] using ⟨hs.responses_wf, hw⟩
  one_response_each := by simp [hs.one_response_each]
  fault_recorded := .inl ⟨hlive, by simpa [or_imp, forall_and] using ⟨hs.no_fault_of_live hlive, hf⟩⟩

/-- A request that ends in a Fault (60_exceptions.md R170). -/
theorem raise_inv (hs : s.Inv) (hlive : s.fault = .none) {c : FaultCause} (hc : c ≠ .none) :
    ((s.accept q rest).raise c).Inv where
  decoders_inv := hs.decoders_inv
  responses_wf := by simpa [or_imp, forall_and] using ⟨hs.responses_wf, hc⟩
  one_response_each := by simp [hs.one_response_each]
  fault_recorded := .inr ⟨hc, s.responses, rfl, hs.no_fault_of_live hlive⟩

/-- A decoder that is written a state that meets the invariant. -/
theorem State.Inv.set_decoders_inv (hs : s.Inv) (d : Nat) {st' : DecoderState} (hst : st'.Inv s.pendingCap) :
    ∀ st ∈ s.decoders.set d st', st.Inv s.pendingCap := by
  intro st hmem
  rcases List.mem_or_eq_of_mem_set hmem with hmem | rfl
  · exact hs.decoders_inv st hmem
  · exact hst

/-- Every effect of an operation keeps the invariant. -/
theorem Effect.keeps_inv {i : Instr} (he : Effect i (s.accept q rest) t) (hs : s.Inv) (hlive : s.fault = .none) :
    t.Inv := by
  cases he with
  | responds r hw hf => exact respond_inv hs hlive hs.decoders_inv hw hf
  | raises c hc => exact raise_inv hs hlive hc
  | inits d st hi hd => exact respond_inv hs hlive (hs.set_decoders_inv d (initial_inv _)) trivial rfl
  | feeds d chunk st st' e fs n hi hd hf =>
    obtain ⟨hst, hfs⟩ := feed_inv (hs.decoders_inv st (List.mem_of_getElem? hd)) hf
    exact respond_inv hs hlive (hs.set_decoders_inv d hst) hfs rfl

end

/-- Settles O51: every decoder is at its reset value, and nothing is on record. -/
theorem invariantHoldsAtReset : Obligations.InvariantHoldsAtReset := resetOf_inv

/-- Settles O50, by what a step can do (`step_next`) and what DEC_FEED commits (`feed_inv`). -/
theorem everyStepKeepsTheInvariant : Obligations.EveryStepKeepsTheInvariant := by
  intro s t hs h
  obtain ⟨-, rfl⟩ | ⟨rest, -, rfl⟩ | ⟨r, rest, -, hlive, rfl | ⟨i, -, he⟩⟩ := step_next h
  · exact hs
  · exact blockReset_inv s rest
  · exact raise_inv hs hlive (by decide)
  · exact he.keeps_inv hs hlive

end Sys2Proof.Machine
end


/-! ## Family 20_memory: what an operation leaves unchanged, and operations on different decoders -/

section
/-! The frame of every operation, read off its `Effect` (20_memory.md R44, R49; 30_encoding.md R69). -/
namespace Sys2Proof.Machine

section
variable {i : Instr} {s t : State}

/-- No operation writes the host's inputs, the requests on record or the parameters of the block. -/
theorem Effect.inputs_issued_config (he : Effect i s t) :
    t.inputs = s.inputs ∧ t.issued = s.issued ∧ t.config = s.config := by
  cases he with
  | responds | raises => exact ⟨rfl, rfl, rfl⟩
  | inits | feeds => exact ⟨rfl, rfl, by simp [State.config]⟩

/-- The two writing effects write only the decoder that the operation names. -/
theorem Effect.decoders_of_not_onDecoder (he : Effect i s t) {e : Nat} (hne : ¬ OnDecoder i e) :
    t.decoders[e]? = s.decoders[e]? := by
  cases he with
  | responds | raises => rfl
  | inits d _ hi =>
    have hde : d ≠ e := by rintro rfl; exact hne (.inl hi)
    exact List.getElem?_set_ne hde
  | feeds d chunk _ _ _ _ _ hi =>
    have hde : d ≠ e := by rintro rfl; exact hne (.inr ⟨chunk, hi⟩)
    exact List.getElem?_set_ne hde

/-- On a live block an operation adds one response, which is a fault exactly when `FAULT` takes a cause
(60_exceptions.md R170). -/
theorem Effect.one_response (he : Effect i s t) (hlive : s.fault = .none) :
    ∃ r, t.responses = s.responses ++ [r] ∧
      ((t.fault = .none ∧ r.isFault = false) ∨ (r = .fault t.fault ∧ t.fault ≠ .none ∧ t.decoders = s.decoders)) := by
  cases he with
  | responds r _ hf => exact ⟨r, rfl, .inl ⟨hlive, hf⟩⟩
  | raises c hc => exact ⟨.fault c, rfl, .inr ⟨rfl, hc, rfl⟩⟩
  | inits => exact ⟨.decInit, rfl, .inl ⟨hlive, rfl⟩⟩
  | feeds _ _ _ _ e fs n => exact ⟨.decFeed e fs n, rfl, .inl ⟨hlive, rfl⟩⟩

end

/-- Settles O48, by what one operation can do (`exec_effect`). -/
theorem operationsChangeOnlyTheirInstance : Obligations.OperationsChangeOnlyTheirInstance := by
  intro i s t h
  obtain ⟨hlive, he⟩ := exec_effect h
  obtain ⟨hinputs, hissued, hconfig⟩ := he.inputs_issued_config
  exact ⟨hinputs, hissued, hconfig, fun _ hne => he.decoders_of_not_onDecoder hne, he.one_response hlive⟩

end Sys2Proof.Machine
end

section
/-! Operations on different decoders commute: a Decoder operation that completes depends on the state of its own decoder
and on `PENDING_CAP` only (20_memory.md R49). -/
namespace Sys2Proof.Machine

/-- On every live block with this `PENDING_CAP` whose decoder `d` is in state `st`, operation `i` puts it in state `st'`
and responds `r`, whatever the rest of the block is. -/
def TakesDecoder (i : Instr) (d : Nat) (cap : Option Nat) (st st' : DecoderState) (r : Response) : Prop :=
  ∀ s : State, s.fault = .none → s.pendingCap = cap → s.decoders[d]? = some st →
    exec i s = .next ((s.setDecoder d st').respond r)

/-- What a Decoder operation does when it completes with `FAULT = 0`. -/
theorem takesDecoder_of_onDecoder {i : Instr} {d : Nat} {s t : State} (hi : OnDecoder i d) (h : exec i s = .next t)
    (ht : t.fault = .none) :
    s.fault = .none ∧ ∃ st st' r, s.decoders[d]? = some st ∧ TakesDecoder i d s.pendingCap st st' r := by
  rcases hi with rfl | ⟨chunk, rfl⟩ <;> obtain ⟨hs, ⟨st, hd, e⟩ | ⟨-, rfl⟩⟩ := withDecoder_next h
  · exact ⟨hs, st, .initial, .decInit, hd, fun _ hs' _ hd' => withDecoder_of_live hs' hd' _⟩
  · cases ht
  · refine ⟨hs, st, ?_⟩
    split at e
    · next st' p fs n hf =>
      exact ⟨st', .decFeed p fs n, hd, fun _ hs' hcap' hd' => exec_decFeed_of_commit hs' hd' (hcap' ▸ hf)⟩
    · cases e; cases ht
    · cases e
  · cases ht

/-- Settles O49: each operation finds its own decoder as it was, so it does the same in both orders
(`takesDecoder_of_onDecoder`), and writes of different decoders commute. -/
theorem operationsOnDifferentInstancesCommute : Obligations.OperationsOnDifferentInstancesCommute := by
  intro s a b i j d e hi hj hde ha hb hlive
  obtain ⟨halive, ste, ste', rj, hae, htakes_j⟩ := takesDecoder_of_onDecoder hj hb hlive
  obtain ⟨hs, std, std', ri, hsd, htakes_i⟩ := takesDecoder_of_onDecoder hi ha halive
  obtain rfl : (s.setDecoder d std').respond ri = a := by simpa [htakes_i s hs rfl hsd] using ha
  obtain rfl : (((s.setDecoder d std').respond ri).setDecoder e ste').respond rj = b := by
    simpa [htakes_j _ halive rfl hae] using hb
  have hse : s.decoders[e]? = some ste := by simpa [hde] using hae
  have hsd' : ((s.setDecoder e ste').respond rj).decoders[d]? = some std := by simpa [hde.symm] using hsd
  exact ⟨ri, rj, _, _, htakes_j s hs rfl hse, htakes_i _ hs rfl hsd', List.set_comm _ _ hde.symm, hs, by simp, by simp⟩

end Sys2Proof.Machine
end


/-! ## Family 30_encoding: requests and operations, and the header-byte rows as HDR_DECODE of their bytes -/

section
/-! Encoding an operation and decoding it again (30_encoding.md R56 to R59, R64, R65, R70). -/
namespace Sys2Proof

/-- LengthFields 126 and 127 have rows of their own (30_encoding.md R59); LEN7 holds all the others (R58). -/
theorem toNat_le_125_iff (lf : BitVec 7) : lf.toNat ≤ 125 ↔ lf ≠ 126#7 ∧ lf ≠ 127#7 := by
  revert lf; decide

/-- FRAME_INVALID_OPCODE holds the opcodes of no other row (30_encoding.md R65). -/
theorem validOpcode_eq_false_iff (op : BitVec 4) :
    validOpcode op = false ↔ op ≠ 0#4 ∧ op ≠ 1#4 ∧ op ≠ 2#4 ∧ op ≠ 8#4 ∧ op ≠ 9#4 ∧ op ≠ 10#4 := by
  simp [validOpcode, and_assoc]

/-- Settles O1: the eleven commands by their bytes, the frame rows by the opcode that byte 0 holds, the length forms by
the LengthField that byte 1 holds. -/
theorem encodedOperationDecodesToItself : Obligations.EncodedOperationDecodesToItself := by
  intro i hw
  cases i with
  | hdrDecode | hdrEncode | hdrSize | maskApply | csDecode | csEncode | csClassify | csNamedProtocol | csNamedIana
  | decInit | decFeed => rfl
  | frameContinuation | frameText | frameBinary | frameConnectionClose | framePing | framePong =>
    simp [encode, decodeRequest, decodeByte0]
  | frameInvalidOpcode f r1 r2 r3 op rest =>
    have hop : validOpcode op = false := by simpa [Instr.wf] using hw
    obtain ⟨h0, h1, h2, h8, h9, hA⟩ := (validOpcode_eq_false_iff op).mp hop
    simp [encode, decodeRequest, decodeByte0, h0, h1, h2, h8, h9, hA]
  | len7 b0 m lf rest =>
    obtain ⟨h126, h127⟩ := (toNat_le_125_iff lf).mp (of_decide_eq_true hw)
    simp [encode, decodeRequest, decodeByte1, h126, h127]
  | len16 | len64 => simp [encode, decodeRequest, decodeByte1]

/-! ### The other direction -/

theorem decodeCommand_wf {cmd : Byte} {ops : Operands} {i : Instr} (h : decodeCommand cmd ops = .ok i) :
    i.wf = true := by
  simp only [decodeCommand] at h
  repeat' split at h
  all_goals cases h <;> rfl

/-- Byte 0 decodes to a well-formed row, whose opcode and flags are the whole of that byte. -/
theorem decodeByte0_wf_encode (b : Byte) (rest : Bytes) :
    (decodeByte0 b rest).wf = true ∧ encode (decodeByte0 b rest) = .headerByte0 b rest := by
  have hb := mkByte0_fields b
  simp only [decodeByte0]
  split_ifs with h0 h1 h2 h8 h9 hA
  · exact ⟨rfl, by rw [encode, ← h0, hb]⟩
  · exact ⟨rfl, by rw [encode, ← h1, hb]⟩
  · exact ⟨rfl, by rw [encode, ← h2, hb]⟩
  · exact ⟨rfl, by rw [encode, ← h8, hb]⟩
  · exact ⟨rfl, by rw [encode, ← h9, hb]⟩
  · exact ⟨rfl, by rw [encode, ← hA, hb]⟩
  · have hop := (validOpcode_eq_false_iff _).mpr ⟨h0, h1, h2, h8, h9, hA⟩
    exact ⟨by rw [Instr.wf, hop]; rfl, by rw [encode, hb]⟩

/-- Byte 1 decodes to a well-formed row, whose LengthField and Mask bit are the whole of that byte. -/
theorem decodeByte1_wf_encode (b0 b1 : Byte) (rest : Bytes) :
    (decodeByte1 b0 b1 rest).wf = true ∧ encode (decodeByte1 b0 b1 rest) = .headerByte1 b0 b1 rest := by
  have hb := mkByte1_fields b1
  simp only [decodeByte1]
  split_ifs with h126 h127
  · exact ⟨rfl, by rw [encode, ← h126, hb]⟩
  · exact ⟨rfl, by rw [encode, ← h127, hb]⟩
  · exact ⟨decide_eq_true ((toNat_le_125_iff _).mpr ⟨h126, h127⟩), by rw [encode, hb]⟩

/-- Settles O2, by one lemma for each opcode space. -/
theorem decodingKeepsEveryHeaderByte : Obligations.DecodingKeepsEveryHeaderByte := by
  refine ⟨fun r i h => ?_, fun b rest => (decodeByte0_wf_encode b rest).2,
    fun b0 b1 rest => (decodeByte1_wf_encode b0 b1 rest).2⟩
  cases r with
  | command cmd ops => exact decodeCommand_wf h
  | headerByte0 b rest => cases h; exact (decodeByte0_wf_encode b rest).1
  | headerByte1 b0 b1 rest => cases h; exact (decodeByte1_wf_encode b0 b1 rest).1

/-- Settles O3: the decoder computes on these words. -/
theorem sampleWordsDecodeToTheirOperations : Obligations.SampleWordsDecodeToTheirOperations :=
  ⟨rfl, rfl, rfl, rfl, rfl, rfl⟩

end Sys2Proof
end

section
/-! A step on a request (30_encoding.md R69, R71): its operation, the Faults of a reserved request, and the end of a run
(70_reset_and_hazards.md R199, R200). -/
namespace Sys2Proof.Machine

/-- A live block performs the next request. -/
theorem step_of_request {s : State} {r : Request} {rest : List HostInput} (hs : s.fault = .none)
    (hin : s.inputs = .request r :: rest) : step s = runRequest r (s.accept r rest) := by
  simp only [step, hin, whenLive_of_live hs]

/-- Settles O4. -/
theorem stepPerformsTheDecodedOperation : Obligations.StepPerformsTheDecodedOperation := by
  intro s r rest i hs hin hdec
  rw [step_of_request hs hin, runRequest, hdec]
  rfl

/-- A command byte outside the eleven of 30_encoding.md R70 has no operation (R71). -/
theorem decodeCommand_of_reserved {cmd : Byte} (ops : Operands)
    (h : cmd.toNat ∉ [0x01, 0x02, 0x03, 0x10, 0x20, 0x21, 0x22, 0x23, 0x24, 0x30, 0x31]) :
    decodeCommand cmd ops = .error (.badCommand cmd) := by
  have hne : ∀ c : Byte, c.toNat ∈ [0x01, 0x02, 0x03, 0x10, 0x20, 0x21, 0x22, 0x23, 0x24, 0x30, 0x31] → cmd ≠ c :=
    fun c hc e => h (e ▸ hc)
  simp [decodeCommand, hne]

/-- Settles O5: no operation is decoded from a reserved command byte, and no decoder has an index out of range. -/
theorem reservedCommandOrInstanceFaults : Obligations.ReservedCommandOrInstanceFaults := by
  constructor
  · intro s cmd ops rest hs hin hcmd
    rw [step_of_request hs hin, runRequest, decodeRequest, decodeCommand_of_reserved ops hcmd]
    rfl
  · rintro s d i hs hd (rfl | ⟨chunk, rfl⟩)
    · exact withDecoder_of_out_of_range hs hd _
    · exact withDecoder_of_out_of_range hs hd _

/-- What a step on a request records: the request, and one response, which is a fault exactly when `FAULT` takes a cause
(60_exceptions.md R170). -/
theorem step_request_records {s t : State} {r : Request} {rest : List HostInput} (hin : s.inputs = .request r :: rest)
    (h : step s = .next t) :
    s.fault = .none ∧ t.inputs = rest ∧ t.issued = s.issued ++ [r] ∧
      ∃ a, t.responses = s.responses ++ [a] ∧ (t.fault = .none ↔ a.isFault = false) := by
  obtain ⟨hnil, -⟩ | ⟨_, hreset, -⟩ | ⟨_, _, hin', hs, he⟩ := step_next h
  · cases hnil.symm.trans hin
  · cases hreset.symm.trans hin
  · cases hin'.symm.trans hin
    obtain rfl | ⟨i, -, he⟩ := he
    · exact ⟨hs, rfl, rfl, .fault .badCommand, rfl, by simp [Response.isFault]⟩
    · obtain ⟨hinputs, hissued, -⟩ := he.inputs_issued_config
      obtain ⟨a, ha, ⟨hf, hok⟩ | ⟨rfl, hf, -⟩⟩ := he.one_response hs
      · exact ⟨hs, hinputs, hissued, a, ha, by simp [hf, hok]⟩
      · exact ⟨hs, hinputs, hissued, _, ha, by simp [hf, Response.isFault]⟩

/-- When a run whose last response is `a` is at a normal end (70_reset_and_hazards.md R200). -/
theorem endsNormally_iff {t : State} {rs : List Response} {a : Response} (h : t.responses = rs ++ [a]) :
    t.endsNormally = true ↔ t.lastRequestIssued = true ∧ t.fault = .none ∧ a.isFault = false := by
  simp [State.endsNormally, h, and_assoc]

/-- Settles O53: the step records the request with one response (`step_request_records`), and the invariant says the same
of the requests before it and, at a normal end, that no response is a fault. -/
theorem aNormalEndIsReachedByACompletedRequest : Obligations.ANormalEndIsReachedByACompletedRequest := by
  intro s t r rest hs hin h
  obtain ⟨hlive, hinputs, hissued, a, hresp, hfault⟩ := step_request_records hin h
  have hnormal := endsNormally_iff hresp
  rw [lastRequestIssued_iff, hinputs, hfault, and_self] at hnormal
  have ht : t.Inv := everyStepKeepsTheInvariant s t hs h
  refine ⟨a, hresp, ?_, hnormal, fun hend => ?_⟩
  · rw [State.observation, hissued, hresp, List.zip_append hs.one_response_each]
    rfl
  · have htlive : t.fault = .none := hfault.mpr (hnormal.mp hend).2
    exact ⟨hlive, htlive, ht.no_fault_of_live htlive⟩

end Sys2Proof.Machine
end

section
/-! The rows of the two wire spaces answer as HDR_DECODE of the bytes they are encoded in (30_encoding.md R58, R59, R64,
R65; 40_header.md R85). -/
namespace Sys2Proof.Machine

section
variable {i : Instr} {b0 b1 : Byte} {rest : Bytes}

theorem exec_of_encode_headerByte0 (hi : encode i = .headerByte0 b0 rest) (s : State) :
    exec i s = exec (.hdrDecode (b0 :: rest)) s := by
  cases i with
  | frameContinuation | frameText | frameBinary | frameConnectionClose | framePing | framePong
  | frameInvalidOpcode => cases hi; rfl
  | _ => cases hi

theorem exec_of_encode_headerByte1 (hi : encode i = .headerByte1 b0 b1 rest) (s : State) :
    exec i s = exec (.hdrDecode (b0 :: b1 :: rest)) s := by
  cases i with
  | len7 | len16 | len64 => cases hi; rfl
  | _ => cases hi

end

/-- Settles O12: a row is encoded in the bytes it was decoded from. -/
theorem wireRowsAnswerAsHdrDecode : Obligations.WireRowsAnswerAsHdrDecode :=
  ⟨fun b0 rest => exec_of_encode_headerByte0 (decodeByte0_wf_encode b0 rest).2,
    fun b0 b1 rest => exec_of_encode_headerByte1 (decodeByte1_wf_encode b0 b1 rest).2⟩

theorem answers_hdrDecode {bs : Bytes} {o : HdrOutcome} (h : hdrDecode bs = o) :
    Answers (.hdrDecode bs) (.hdrDecode o) :=
  fun _ hs => h ▸ answer_of_live hs _

section
variable {i : Instr} {b0 b1 : Byte} {rest : Bytes} {o : HdrOutcome}

theorem answers_of_encode_headerByte0 (hi : encode i = .headerByte0 b0 rest) (h : hdrDecode (b0 :: rest) = o) :
    Answers i (.hdrDecode o) :=
  fun s hs => (exec_of_encode_headerByte0 hi s).trans (answers_hdrDecode h s hs)

theorem answers_of_encode_headerByte1 (hi : encode i = .headerByte1 b0 b1 rest) (h : hdrDecode (b0 :: b1 :: rest) = o) :
    Answers i (.hdrDecode o) :=
  fun s hs => (exec_of_encode_headerByte1 hi s).trans (answers_hdrDecode h s hs)

end

/-! ### The opcode of byte 0 -/

/-- HDR_DECODE judges the opcode as soon as byte 1 is there, and finds nothing else to be an invalid opcode (40_header.md
R86, R87). -/
theorem hdrDecode_eq_invalidOpCode_iff (b0 : Byte) (rest : Bytes) :
    hdrDecode (b0 :: rest) = .invalidOpCode ↔ rest ≠ [] ∧ validOpcode (opCodeField b0) = false := by
  cases rest with
  | nil => simp [hdrDecode]
  | cons b1 t =>
    cases hop : validOpcode (opCodeField b0) with
    | false => simp [hdrDecode, hop]
    | true =>
      cases hl : readLength (lengthField b1) (b0 :: b1 :: t) with
      | incomplete | inflated | msbNotZero => simp [hdrDecode, hop, hl]
      | size ps off => cases hk : readKey (maskBit b1) (b0 :: b1 :: t) off <;> simp [hdrDecode, hop, hl, hk]

/-- Settles O14. -/
theorem invalidOpcodeRowIsReported : Obligations.InvalidOpcodeRowIsReported := by
  intro f r1 r2 r3 op rest hop
  have hop : validOpcode op = false := by revert op; decide
  refine answers_of_encode_headerByte0 rfl ?_
  split_ifs with hrest
  · rw [hrest]; rfl
  · exact (hdrDecode_eq_invalidOpCode_iff _ _).mpr ⟨hrest, by rwa [opCodeField_mkByte0]⟩

/-- An accepted header has the flags and the opcode of its byte 0 (40_header.md R95). -/
theorem hdrDecode_mkByte0_success {f r1 r2 r3 : Bool} {op : BitVec 4} {rest : Bytes} {h : Header} {n : Nat}
    (e : hdrDecode (mkByte0 f r1 r2 r3 op :: rest) = .success h n) :
    h.fin = f ∧ h.rsv1 = r1 ∧ h.rsv2 = r2 ∧ h.rsv3 = r3 ∧ h.opCode = op := by
  cases rest with
  | nil => cases e
  | cons b1 t =>
    obtain ⟨-, hb0, -⟩ := fields_of_hdrDecode e
    exact ⟨by simpa using congrArg finBit hb0.symm, by simpa using congrArg rsv1Bit hb0.symm,
      by simpa using congrArg rsv2Bit hb0.symm, by simpa using congrArg rsv3Bit hb0.symm,
      by simpa using congrArg opCodeField hb0.symm⟩

end Sys2Proof.Machine
end

section
/-! The three length forms behind a valid opcode, and the rows of the valid opcodes (30_encoding.md R58, R59, R60, R64;
40_header.md R88 to R92). -/
namespace Sys2Proof.Machine

theorem ofNat_toNat_mod_16 (b : Byte) : BitVec.ofNat 4 (b.toNat % 16) = opCodeField b := by
  revert b; decide

theorem validOpcode_of_mem {b : Byte} (h : b.toNat % 16 ∈ [0, 1, 2, 8, 9, 10]) : validOpcode (opCodeField b) = true := by
  revert b; decide

theorem mkByte1_false (lf : BitVec 7) : mkByte1 false lf = BitVec.ofNat 8 lf.toNat := by
  revert lf; decide

theorem getLsbD_7_iff (b : Byte) : b.getLsbD 7 = true ↔ 128 ≤ b.toNat := by
  revert b; decide

/-- A key behind the bytes `s` (30_encoding.md R60). -/
theorem readKey_append_key (s : Bytes) (k0 k1 k2 k3 : Byte) (t : Bytes) :
    readKey true (s ++ k0 :: k1 :: k2 :: k3 :: t) s.length = some (⟨k0, k1, k2, k3⟩, s.length + 4) := by
  simp [readKey, byteAt]

/-! ### Reading the length fields -/

/-- LengthField 0 to 125 is the payload size, with no extended length field (30_encoding.md R58). -/
theorem readLength_of_le_125 {lf : BitVec 7} (h : lf.toNat ≤ 125) (s : Bytes) :
    readLength lf s = .size (BitVec.ofNat 64 lf.toNat) 2 := by
  rw [readLength, if_pos h, BitVec.ofNat_toNat]

theorem readLength_126 (s : Bytes) : readLength 126 s = readLength16 s := rfl

theorem readLength_127 (s : Bytes) : readLength 127 s = readLength64 s := rfl

theorem readLength_126_of_short {b0 b1 : Byte} {t : Bytes} (h : t.length < 2) :
    readLength 126 (b0 :: b1 :: t) = .incomplete := by
  rw [readLength_126, readLength16, if_pos (by simp only [List.length_cons]; omega)]

theorem readLength_126_cons (b0 b1 x y : Byte) (t : Bytes) :
    readLength 126 (b0 :: b1 :: x :: y :: t) =
      if x.toNat * 256 + y.toNat < 126 then .inflated else .size (BitVec.ofNat 64 (x.toNat * 256 + y.toNat)) 4 := by
  have hread : memRead (b0 :: b1 :: x :: y :: t) 2 2 = x.toNat * 256 + y.toNat := by simp [memRead, bigEndian]
  rw [readLength_126, readLength16, if_neg (by simp), hread]

theorem readLength_127_of_short {b0 b1 : Byte} {t : Bytes} (h : t.length < 8) :
    readLength 127 (b0 :: b1 :: t) = .incomplete := by
  rw [readLength_127, readLength64, if_pos (by simp only [List.length_cons]; omega)]

theorem readLength_127_cons (b0 b1 x0 x1 x2 x3 x4 x5 x6 x7 : Byte) (t : Bytes) {v : Nat}
    (hv : v = x0.toNat * 2 ^ 56 + x1.toNat * 2 ^ 48 + x2.toNat * 2 ^ 40 + x3.toNat * 2 ^ 32 + x4.toNat * 2 ^ 24
      + x5.toNat * 2 ^ 16 + x6.toNat * 2 ^ 8 + x7.toNat) :
    readLength 127 (b0 :: b1 :: x0 :: x1 :: x2 :: x3 :: x4 :: x5 :: x6 :: x7 :: t) =
      if 2 ^ 63 ≤ v then .msbNotZero else if v < 65536 then .inflated else .size (BitVec.ofNat 64 v) 10 := by
  have hread : memRead (b0 :: b1 :: x0 :: x1 :: x2 :: x3 :: x4 :: x5 :: x6 :: x7 :: t) 2 8 = v := by
    simp [memRead, bigEndian]; omega
  have hmsb : x0.getLsbD 7 = true ↔ 2 ^ 63 ≤ v := by
    rw [getLsbD_7_iff]; omega
  rw [readLength_127, readLength64, if_neg (by simp), hread]
  exact if_congr hmsb rfl rfl

/-! ### What a row of byte 1 answers, by what its length fields give -/

section
variable {i : Instr} {b0 : Byte} {m : Bool} {lf : BitVec 7} {rest : Bytes}
  (hi : encode i = .headerByte1 b0 (mkByte1 m lf) rest) (hop : validOpcode (opCodeField b0) = true)
include hi hop

theorem answers_of_readLength_incomplete (hl : readLength lf (b0 :: mkByte1 m lf :: rest) = .incomplete) :
    Answers i (.hdrDecode .incomplete) :=
  answers_of_encode_headerByte1 hi (by simp [hdrDecode, hop, hl])

theorem answers_of_readLength_inflated (hl : readLength lf (b0 :: mkByte1 m lf :: rest) = .inflated) :
    Answers i (.hdrDecode .payloadSizeInflatedEncoding) :=
  answers_of_encode_headerByte1 hi (by simp [hdrDecode, hop, hl])

theorem answers_of_readLength_msbNotZero (hl : readLength lf (b0 :: mkByte1 m lf :: rest) = .msbNotZero) :
    Answers i (.hdrDecode .payloadSizeEighthByteMSBNotZero) :=
  answers_of_encode_headerByte1 hi (by simp [hdrDecode, hop, hl])

/-- After the length fields the header is complete when its key, if it has one, is (30_encoding.md R60; 40_header.md
R92). The bytes `ext` are the extended length field. -/
theorem answers_of_readLength_size {ext tail : Bytes} {v : Nat} (hrest : rest = ext ++ tail)
    (hl : readLength lf (b0 :: mkByte1 m lf :: rest) = .size (BitVec.ofNat 64 v) (ext.length + 2)) :
    (m = false → Answers i (.hdrDecode (.success (byte0Header b0 false v ⟨0, 0, 0, 0⟩) (ext.length + 2)))) ∧
    (m = true → tail.length < 4 → Answers i (.hdrDecode .incomplete)) ∧
    (∀ k0 k1 k2 k3 tl, m = true → tail = k0 :: k1 :: k2 :: k3 :: tl →
      Answers i (.hdrDecode (.success (byte0Header b0 true v ⟨k0, k1, k2, k3⟩) (ext.length + 6)))) := by
  subst hrest
  have success {k : MaskKey} {n : Nat}
      (hk : readKey m (b0 :: mkByte1 m lf :: (ext ++ tail)) (ext.length + 2) = some (k, n)) :
      Answers i (.hdrDecode (.success (byte0Header b0 m v k) n)) := by
    have hcode : (byte0Header b0 m v k).opCode = opCodeField b0 := ofNat_toNat_mod_16 b0
    refine answers_of_encode_headerByte1 hi (hdrDecode_of_fields (by simp) (hcode ▸ hop) ?_ ?_ ?_ hk)
    · rw [hcode]; exact (mkByte0_fields b0).symm
    · exact maskBit_mkByte1 m lf
    · rwa [byteAt_cons_succ, byteAt_cons_zero, lengthField_mkByte1]
  refine ⟨?_, ?_, ?_⟩
  · rintro rfl
    exact success rfl
  · rintro rfl htail
    have hk : readKey true (b0 :: mkByte1 true lf :: (ext ++ tail)) (ext.length + 2) = none := by
      simp [readKey]; omega
    exact answers_of_encode_headerByte1 hi (by simp [hdrDecode, hop, hl, hk])
  · rintro k0 k1 k2 k3 tl rfl rfl
    exact success (readKey_append_key (b0 :: mkByte1 true lf :: ext) k0 k1 k2 k3 tl)

end

/-- Settles O9: a LengthField of 0 to 125 has no extended length field. -/
theorem sevenBitLengthIsLiteralSize : Obligations.SevenBitLengthIsLiteralSize := by
  intro b0 lf rest hop hlf
  have hop := validOpcode_of_mem hop
  have ends (m : Bool) := answers_of_readLength_size (i := .len7 b0 m lf rest) rfl hop (List.nil_append rest).symm
    (readLength_of_le_125 hlf _)
  obtain ⟨hunmasked, -, -⟩ := ends false
  obtain ⟨-, hshort, hkey⟩ := ends true
  refine ⟨hunmasked rfl, ?_, hshort rfl, fun k0 k1 k2 k3 tail => hkey k0 k1 k2 k3 tail rfl⟩
  intro s hs
  rw [← mkByte1_false]
  exact hunmasked rfl s hs

/-- Settles O10: LengthField 126 is followed by two bytes of size. -/
theorem sixteenBitLengthIsReadAndChecked : Obligations.SixteenBitLengthIsReadAndChecked := by
  intro b0 m rest hop
  have hop := validOpcode_of_mem hop
  refine ⟨fun hshort => answers_of_readLength_incomplete rfl hop (readLength_126_of_short hshort), ?_, ?_⟩
  · rintro x y tail rfl hv
    exact answers_of_readLength_inflated rfl hop ((readLength_126_cons ..).trans (if_pos hv))
  · rintro x y tail rfl hv
    exact answers_of_readLength_size (lf := 126) (ext := [x, y]) rfl hop rfl
      ((readLength_126_cons ..).trans (if_neg (Nat.not_lt.mpr hv)))

/-- Settles O11: LengthField 127 is followed by eight bytes of size. -/
theorem sixtyFourBitLengthIsReadAndChecked : Obligations.SixtyFourBitLengthIsReadAndChecked := by
  intro b0 m rest hop
  have hop := validOpcode_of_mem hop
  refine ⟨fun hshort => answers_of_readLength_incomplete rfl hop (readLength_127_of_short hshort), ?_⟩
  rintro x0 x1 x2 x3 x4 x5 x6 x7 tail v rfl hv
  have hread := readLength_127_cons b0 (mkByte1 m 127) x0 x1 x2 x3 x4 x5 x6 x7 tail hv
  refine ⟨fun hmsb => ?_, fun hmin => ?_, fun hmin hmsb => ?_⟩
  · exact answers_of_readLength_msbNotZero rfl hop (hread.trans (if_pos hmsb))
  · rw [if_neg (by omega), if_pos hmin] at hread
    exact answers_of_readLength_inflated rfl hop hread
  · rw [if_neg (by omega), if_neg (by omega)] at hread
    exact answers_of_readLength_size (lf := 127) (ext := [x0, x1, x2, x3, x4, x5, x6, x7]) rfl hop rfl hread

/-! ### The rows of the valid opcodes -/

/-- A byte 1 of 0 to 125 is an unmasked literal size (30_encoding.md R57, R58). -/
theorem byte1_of_le_125 {b1 : Byte} (hb : b1.toNat ≤ 125) :
    maskBit b1 = false ∧ (lengthField b1).toNat = b1.toNat := by
  revert b1; decide

/-- One row of a valid opcode, as `Obligations.ValidOpcodeRowsAreAcceptedAndCopied` has it. -/
theorem validOpcode_row_accepted {i : Instr} {f r1 r2 r3 : Bool} {op : BitVec 4} {rest : Bytes}
    (hi : encode i = .headerByte0 (mkByte0 f r1 r2 r3 op) rest) (hop : validOpcode op = true) :
    ∃ o, Answers i (.hdrDecode o) ∧ o ≠ .invalidOpCode ∧
      (∀ h n, o = .success h n → h.fin = f ∧ h.rsv1 = r1 ∧ h.rsv2 = r2 ∧ h.rsv3 = r3 ∧ h.opCode = op) ∧
      (∀ b1 tail, rest = b1 :: tail → b1.toNat ≤ 125 →
        o = .success { fin := f, rsv1 := r1, rsv2 := r2, rsv3 := r3, opCode := op, isMasked := false,
                       payloadSize := BitVec.ofNat 64 b1.toNat, mask := ⟨0, 0, 0, 0⟩ } 2) := by
  refine ⟨_, answers_of_encode_headerByte0 hi rfl, ?_, fun _ _ => hdrDecode_mkByte0_success, ?_⟩
  · simp [hdrDecode_eq_invalidOpCode_iff, hop]
  · rintro b1 tail rfl hb
    obtain ⟨hmask, hlf⟩ := byte1_of_le_125 hb
    refine hdrDecode_of_fields (by simp) hop rfl hmask ?_ rfl
    exact hlf ▸ readLength_of_le_125 (hlf ▸ hb) _

/-- Settles O13: the six rows are encoded in their own opcodes, which are valid. -/
theorem validOpcodeRowsAreAcceptedAndCopied : Obligations.ValidOpcodeRowsAreAcceptedAndCopied := by
  intro p hp f r1 r2 r3 rest
  simp only [List.mem_cons, List.not_mem_nil, or_false] at hp
  obtain rfl | rfl | rfl | rfl | rfl | rfl := hp
  all_goals exact validOpcode_row_accepted rfl (by decide)

end Sys2Proof.Machine
end

/-! ## Family 40_header: what the Header unit answers -/

section
/-! The answers of HDR_DECODE, HDR_ENCODE and HDR_SIZE (40_header.md). -/
namespace Sys2Proof.Machine

/-! ### HDR_DECODE: the order of its tests, and bytes behind a decision -/

theorem validOpcode_of_not_mem {b : Byte} (h : b.toNat % 16 ∉ [0, 1, 2, 8, 9, 10]) :
    validOpcode (opCodeField b) = false := by
  revert b; decide

/-- Settles O8. -/
theorem shortInputThenOpcodeDecide : Obligations.ShortInputThenOpcodeDecide := by
  refine ⟨fun bs hshort => answers_hdrDecode (if_pos hshort), fun b0 b1 rest hop => answers_hdrDecode ?_⟩
  exact (hdrDecode_eq_invalidOpCode_iff _ _).mpr ⟨List.cons_ne_nil _ _, validOpcode_of_not_mem hop⟩

/-- A decision of HDR_DECODE stays when bytes are added (40_header.md R106). -/
theorem hdrDecode_append_of_eq {s : Bytes} {o : HdrOutcome} (e : hdrDecode s = o) (ho : o ≠ .incomplete) (t : Bytes) :
    hdrDecode (s ++ t) = o :=
  e ▸ hdrDecode_append (e ▸ ho) t

/-- Settles O15: the four decisions are the outcomes other than Incomplete. -/
theorem hdrDecodeIsStableUnderExtension : Obligations.HdrDecodeIsStableUnderExtension := by
  intro bs t
  refine ⟨fun h n e => hdrDecode_append_of_eq e nofun t, fun e he heq => hdrDecode_append_of_eq heq ?_ t, fun e => ?_⟩
  · rintro rfl
    simp at he
  · by_contra hdecided
    exact hdecided (hdrDecode_append hdecided t ▸ e)

/-! ### HDR_ENCODE and HDR_SIZE: when they complete, and with what -/

/-- With a valid opcode and room, HDR_ENCODE completes (40_header.md R96). -/
theorem answers_hdrEncode {h : Header} {cap : Nat} (hop : validOpcode h.opCode = true)
    (hcap : encSize h.payloadSize h.isMasked ≤ cap) :
    Answers (.hdrEncode h cap) (.hdrEncode (headerBytes h) (headerBytes h).length) := by
  intro s hs
  rw [length_headerBytes]
  simp [exec, execHdrEncode, whenLive_of_live hs, hop, Nat.not_lt.mpr hcap, State.respond]

theorem answers_hdrSize (ps : BitVec 64) (m : Bool) : Answers (.hdrSize ps m) (.hdrSize (encSize ps m)) :=
  fun _ hs => answer_of_live hs _

/-- Settles O16: HDR_DECODE reads back what HDR_ENCODE writes, whatever follows. -/
theorem headerRoundTrip : Obligations.HeaderRoundTrip := by
  intro h cap t hw hcap
  refine ⟨headerBytes h, (headerBytes h).length, answers_hdrEncode hw.opcode_valid hcap, rfl,
    answers_hdrDecode (hdrDecode_headerBytes_append hw t), ?_⟩
  rw [length_headerBytes]
  exact answers_hdrSize _ _

/-- Settles O20: the opcode is tested before the capacity. -/
theorem hdrEncodeFaultsOnBadOpcodeThenSmallDestination :
    Obligations.HdrEncodeFaultsOnBadOpcodeThenSmallDestination := by
  intro h cap
  rw [← validOpcode_iff]
  constructor
  · intro hop s hs
    simp [exec, execHdrEncode, whenLive_of_live hs, hop, State.raise]
  · intro hop hcap s hs
    simp [exec, execHdrEncode, whenLive_of_live hs, hop, hcap, State.raise]

/-- The table of 30_encoding.md R66: the encoded size by length form and Mask bit. -/
theorem encSize_eq (ps : BitVec 64) (m : Bool) :
    encSize ps m =
      if ps.toNat ≤ 125 then (if m then 6 else 2)
      else if ps.toNat ≤ 65535 then (if m then 8 else 4)
      else (if m then 14 else 10) := by
  unfold encSize
  split_ifs <;> omega

/-- Settles O21. -/
theorem hdrSizeIsTheMinimalHeaderSize : Obligations.HdrSizeIsTheMinimalHeaderSize := by
  intro ps m
  rw [← encSize_eq]
  exact answers_hdrSize ps m

/-! ### The bytes HDR_ENCODE writes -/

theorem toNat_mkByte0 (f r1 r2 r3 : Bool) (op : BitVec 4) :
    (mkByte0 f r1 r2 r3 op).toNat = 128 * f.toNat + 64 * r1.toNat + 32 * r2.toNat + 16 * r3.toNat + op.toNat := by
  revert f r1 r2 r3 op; decide

theorem toNat_mkByte1 (m : Bool) (lf : BitVec 7) : (mkByte1 m lf).toNat = 128 * m.toNat + lf.toNat := by
  revert m lf; decide

theorem bigEndian_two (x y : Byte) : bigEndian [x, y] = x.toNat * 256 + y.toNat := by
  simp [bigEndian]

/-- The two bytes of a 16-bit field, most significant first. -/
theorem memWrite_two {v : Nat} (hv : v < 2 ^ 16) :
    ∃ x y : Byte, memWrite 2 v = [x, y] ∧ x.toNat * 256 + y.toNat = v := by
  have hread : bigEndian (memWrite 2 v) = v := (bigEndian_memWrite 2 v).trans (Nat.mod_eq_of_lt hv)
  exact ⟨_, _, rfl, (bigEndian_two ..).symm.trans hread⟩

theorem bigEndian_eight (x0 x1 x2 x3 x4 x5 x6 x7 : Byte) :
    bigEndian [x0, x1, x2, x3, x4, x5, x6, x7] =
      x0.toNat * 2 ^ 56 + x1.toNat * 2 ^ 48 + x2.toNat * 2 ^ 40 + x3.toNat * 2 ^ 32 + x4.toNat * 2 ^ 24
        + x5.toNat * 2 ^ 16 + x6.toNat * 2 ^ 8 + x7.toNat := by
  simp only [bigEndian, List.foldl_cons, List.foldl_nil]
  omega

/-- The eight bytes of a 64-bit field, most significant first. -/
theorem memWrite_eight {v : Nat} (hv : v < 2 ^ 64) :
    ∃ x0 x1 x2 x3 x4 x5 x6 x7 : Byte, memWrite 8 v = [x0, x1, x2, x3, x4, x5, x6, x7] ∧
      x0.toNat * 2 ^ 56 + x1.toNat * 2 ^ 48 + x2.toNat * 2 ^ 40 + x3.toNat * 2 ^ 32 + x4.toNat * 2 ^ 24
        + x5.toNat * 2 ^ 16 + x6.toNat * 2 ^ 8 + x7.toNat = v := by
  have hread : bigEndian (memWrite 8 v) = v := (bigEndian_memWrite 8 v).trans (Nat.mod_eq_of_lt hv)
  exact ⟨_, _, _, _, _, _, _, _, rfl, (bigEndian_eight ..).symm.trans hread⟩

/-- Byte 1 and the extended length field, by the size's length form (40_header.md R97). -/
theorem lengthBytes_layout (m : Bool) (ps : BitVec 64) :
    ∃ b1 ext, lengthBytes m ps = b1 :: ext ∧
      (ps.toNat ≤ 125 → ext = [] ∧ b1.toNat = 128 * m.toNat + ps.toNat) ∧
      (126 ≤ ps.toNat → ps.toNat ≤ 65535 → b1.toNat = 128 * m.toNat + 126 ∧ ext = memWrite 2 ps.toNat) ∧
      (65536 ≤ ps.toNat → b1.toNat = 128 * m.toNat + 127 ∧ ext = memWrite 8 ps.toNat) := by
  unfold lengthBytes
  split_ifs with h7 h16
  · have hlf : (ps.setWidth 7).toNat = ps.toNat := by rw [BitVec.toNat_setWidth]; omega
    exact ⟨_, _, rfl, fun _ => ⟨rfl, hlf ▸ toNat_mkByte1 m _⟩, by omega, by omega⟩
  · exact ⟨_, _, rfl, by omega, fun _ _ => ⟨toNat_mkByte1 m 126, rfl⟩, by omega⟩
  · exact ⟨_, _, rfl, by omega, by omega, fun _ => ⟨toNat_mkByte1 m 127, rfl⟩⟩

/-- Settles O18: byte 0, then the length fields of `lengthBytes_layout`, then the key. -/
theorem hdrEncodeWritesTheMinimalLayout : Obligations.HdrEncodeWritesTheMinimalLayout := by
  intro h cap hop hcap
  obtain ⟨b1, ext, hlen, h7, h16, h64⟩ := lengthBytes_layout h.isMasked h.payloadSize
  have hout : headerBytes h =
      mkByte0 h.fin h.rsv1 h.rsv2 h.rsv3 h.opCode :: b1 :: (ext ++ keyBytes h.isMasked h.mask) := by
    rw [headerBytes, hlen, List.cons_append]
  refine ⟨_, b1, ext, headerBytes h, hout, answers_hdrEncode ((validOpcode_iff _).mpr hop) hcap,
    length_headerBytes h, toNat_mkByte0 _ _ _ _ _, h7, fun hlow hhigh => ?_, fun hlow => ?_⟩
  · obtain ⟨hb1, rfl⟩ := h16 hlow hhigh
    exact ⟨hb1, memWrite_two (by omega)⟩
  · obtain ⟨hb1, rfl⟩ := h64 hlow
    exact ⟨hb1, memWrite_eight h.payloadSize.isLt⟩

/-- A size of 2^63 or more is written with the most significant bit set, which no decoder accepts (40_header.md R90,
R99). -/
theorem hdrDecode_headerBytes_of_unreadable {h : Header} (hop : validOpcode h.opCode = true)
    (hsize : 2 ^ 63 ≤ h.payloadSize.toNat) (t : Bytes) :
    hdrDecode (headerBytes h ++ t) = .payloadSizeEighthByteMSBNotZero := by
  obtain ⟨x0, x1, x2, x3, x4, x5, x6, x7, hext, hv⟩ := memWrite_eight h.payloadSize.isLt
  have hlen : lengthBytes h.isMasked h.payloadSize = mkByte1 h.isMasked 127 :: [x0, x1, x2, x3, x4, x5, x6, x7] := by
    rw [lengthBytes, if_neg (by omega), if_neg (by omega), hext]
  have hread (b0 b1 : Byte) (tail : Bytes) :
      readLength 127#7 (b0 :: b1 :: x0 :: x1 :: x2 :: x3 :: x4 :: x5 :: x6 :: x7 :: tail) = .msbNotZero :=
    (readLength_127_cons b0 b1 x0 x1 x2 x3 x4 x5 x6 x7 tail hv.symm).trans (if_pos hsize)
  simp [headerBytes, hlen, hdrDecode, hop, hread]

/-- Settles O19: 14 bytes are room for every header. -/
theorem unreadableSizesAreEncodedButNotDecoded : Obligations.UnreadableSizesAreEncodedButNotDecoded := by
  intro h cap rest hop hsize hcap
  have hop := (validOpcode_iff _).mpr hop
  exact ⟨headerBytes h, answers_hdrEncode hop ((encSize_bounds _ _).2.trans hcap),
    answers_hdrDecode (hdrDecode_headerBytes_of_unreadable hop hsize rest)⟩

end Sys2Proof.Machine
end

/-! ## Family 41_masking: what MASK_APPLY answers -/

section
/-! The bytes of the masking loop, and masking a payload in pieces (41_masking.md). -/
namespace Sys2Proof.Machine

/-! ### The masking loop -/

theorem keyByte_eq_getD (k : MaskKey) {j : Nat} (hj : j < 4) : keyByte k j = [k.k0, k.k1, k.k2, k.k3].getD j 0 := by
  match j, hj with
  | 0, _ | 1, _ | 2, _ | 3, _ => rfl

/-- The byte at place `j` of a loop that starts at payload index `i` (41_masking.md R110). -/
theorem getElem?_maskFrom (k : MaskKey) (i : Nat) (data : Bytes) (j : Nat) :
    (maskFrom k i data)[j]? = data[j]?.map (· ^^^ keyByte k ((i + j) % 4)) := by
  induction data generalizing i j with
  | nil => rfl
  | cons b rest ih =>
    cases j with
    | zero => rfl
    | succ j => simp [maskFrom, ih, Nat.add_assoc, Nat.add_comm 1 j]

theorem maskFrom_append (k : MaskKey) (i : Nat) (a b : Bytes) :
    maskFrom k i (a ++ b) = maskFrom k i a ++ maskFrom k (i + a.length) b := by
  induction a generalizing i with
  | nil => rfl
  | cons x a ih => simp [maskFrom, ih, Nat.add_assoc, Nat.add_comm 1 a.length]

/-! ### Masking in pieces: the rotated key -/

/-- The key as seen from payload index `n` on (41_masking.md R111). -/
def rotateKey (k : MaskKey) (n : Nat) : MaskKey :=
  ⟨keyByte k (n % 4), keyByte k ((n + 1) % 4), keyByte k ((n + 2) % 4), keyByte k ((n + 3) % 4)⟩

theorem keyByte_rotateKey (k : MaskKey) (n j : Nat) : keyByte (rotateKey k n) (j % 4) = keyByte k ((n + j) % 4) := by
  rw [← Nat.add_mod_mod]
  match j % 4, Nat.mod_lt j (by decide : 4 > 0) with
  | 0, _ | 1, _ | 2, _ | 3, _ => rfl

/-- A loop that starts at index `n` is MASK_APPLY's, which starts at 0, with the key rotated. -/
theorem maskFrom_eq_applyMask_rotateKey (k : MaskKey) (n : Nat) (data : Bytes) :
    maskFrom k n data = applyMask data (rotateKey k n) := by
  apply List.ext_getElem?
  intro j
  rw [applyMask, getElem?_maskFrom, getElem?_maskFrom, Nat.zero_add, keyByte_rotateKey]

theorem applyMask_append (a b : Bytes) (k : MaskKey) :
    applyMask (a ++ b) k = applyMask a k ++ applyMask b (rotateKey k a.length) := by
  rw [← maskFrom_eq_applyMask_rotateKey, applyMask, maskFrom_append, Nat.zero_add, applyMask]

theorem rotateKey_mod (k : MaskKey) (n : Nat) : rotateKey k (n % 4) = rotateKey k n := by
  simp [rotateKey]

/-- Settles O24: the rotated key, listed for the four places at which a piece can start. -/
theorem maskingInPiecesRotatesTheKey : Obligations.MaskingInPiecesRotatesTheKey := by
  intro k0 k1 k2 k3 a b
  rw [applyMask_append, ← rotateKey_mod]
  match a.length % 4, Nat.mod_lt a.length (by decide : 4 > 0) with
  | 0, _ | 1, _ | 2, _ | 3, _ => rfl

/-! ### MASK_APPLY -/

theorem answers_maskApply (k : MaskKey) (data : Bytes) :
    Answers (.maskApply k data) (.maskApply (applyMask data k)) :=
  fun _ hs => answer_of_live hs _

/-- An operation answers one response only. -/
theorem Answers.unique {i : Instr} {r r' : Response} (h : Answers i r) (h' : Answers i r') : r = r' := by
  have hnext := (h State.reset rfl).symm.trans (h' State.reset rfl)
  simpa using hnext

/-- Settles O22. -/
theorem maskApplyXorsCyclically : Obligations.MaskApplyXorsCyclically := by
  intro k data
  refine ⟨applyMask data k, answers_maskApply k data, length_applyMask data k, fun i b hb => ?_⟩
  rw [applyMask, getElem?_maskFrom, hb, Nat.zero_add, keyByte_eq_getD k (Nat.mod_lt i (by decide)), Option.map_some]

/-- Settles O23: what MASK_APPLY answers is `applyMask`, which is its own inverse. -/
theorem maskingTwiceIsTheIdentity : Obligations.MaskingTwiceIsTheIdentity := by
  intro k data out h
  obtain rfl : out = applyMask data k := Response.maskApply.inj (h.unique (answers_maskApply k data))
  simpa using answers_maskApply k (applyMask data k)

end Sys2Proof.Machine
end

/-! ## Family 42_closestatus: what the CloseStatus unit answers -/

section
/-! Codes as two big-endian bytes, their ranges and their names (42_closestatus.md). -/
namespace Sys2Proof.Machine

/-! ### CS_DECODE -/

theorem answers_csDecode (data : Bytes) : Answers (.csDecode data) (.csDecode (csDecode data)) :=
  fun _ hs => answer_of_live hs _

theorem csDecode_of_short {data : Bytes} (h : data.length < 2) : csDecode data = 1005 := if_pos h

theorem csDecode_cons_cons (a b : Byte) (rest : Bytes) :
    csDecode (a :: b :: rest) = BitVec.ofNat 16 (a.toNat * 256 + b.toNat) := by
  have hlen : ¬ (a :: b :: rest).length < 2 := by simp
  rw [csDecode, if_neg hlen, ← bigEndian_two]
  rfl

/-- Settles O25. -/
theorem csDecodeReadsTwoBytesOrAnswers1005 : Obligations.CsDecodeReadsTwoBytesOrAnswers1005 :=
  ⟨fun data h => csDecode_of_short h ▸ answers_csDecode data,
    fun a b rest => csDecode_cons_cons a b rest ▸ answers_csDecode (a :: b :: rest)⟩

/-! ### CS_ENCODE -/

section
variable {code : BitVec 16} {cap : Nat}

/-- Code 1005 has no bytes, and needs no room (42_closestatus.md R123). -/
theorem answers_csEncode_1005 (cap : Nat) : Answers (.csEncode 1005 cap) (.csEncode [] 0) :=
  fun _ hs => whenLive_of_live hs _

theorem raises_csEncode (hcode : code ≠ 1005) (hcap : cap < 2) : Raises (.csEncode code cap) .csDstTooSmall := by
  intro s hs
  rw [exec, execCsEncode, whenLive_of_live hs, if_neg hcode, if_pos hcap]
  rfl

theorem answers_csEncode (hcode : code ≠ 1005) (hcap : 2 ≤ cap) :
    Answers (.csEncode code cap) (.csEncode (memWrite 2 code.toNat) 2) := by
  intro s hs
  rw [exec, execCsEncode, whenLive_of_live hs, if_neg hcode, if_neg (Nat.not_lt.mpr hcap)]
  rfl

/-- The same, with the bytes taken apart (42_closestatus.md R122). -/
theorem answers_csEncode_bytes (hcode : code ≠ 1005) (hcap : 2 ≤ cap) :
    ∃ a b : Byte, Answers (.csEncode code cap) (.csEncode [a, b] 2) ∧ a.toNat * 256 + b.toNat = code.toNat := by
  obtain ⟨a, b, hwrite, hvalue⟩ := memWrite_two code.isLt
  exact ⟨a, b, hwrite ▸ answers_csEncode hcode hcap, hvalue⟩

end

/-- Settles O26. -/
theorem csEncodeWritesTwoBytesOrNothing : Obligations.CsEncodeWritesTwoBytesOrNothing := by
  intro code cap
  refine ⟨?_, raises_csEncode, answers_csEncode_bytes⟩
  rintro rfl
  exact answers_csEncode_1005 cap

/-- Settles O27: no byte is read as 1005, the one code that is written as no byte. -/
theorem closeCodeRoundTrip : Obligations.CloseCodeRoundTrip := by
  intro code cap hcap
  by_cases hcode : code = 1005
  · subst hcode
    exact ⟨[], 0, answers_csEncode_1005 cap, answers_csDecode []⟩
  · obtain ⟨a, b, hencode, hvalue⟩ := answers_csEncode_bytes hcode hcap
    have hdecode : csDecode [a, b] = code := by
      rw [csDecode_cons_cons, hvalue, BitVec.ofNat_toNat, BitVec.setWidth_eq]
    exact ⟨[a, b], 2, hencode, hdecode ▸ answers_csDecode [a, b]⟩

/-! ### CS_CLASSIFY -/

theorem answers_csClassify {code : BitVec 16} {r : CodeRange} (h : csClassify code = r) :
    Answers (.csClassify code) (.csClassify r) :=
  fun _ hs => h ▸ answer_of_live hs _

/-- Settles O28: each upper bound is tested after the lower ones. -/
theorem classifyIsTheRangeOfTheCode : Obligations.ClassifyIsTheRangeOfTheCode :=
  fun _ =>
    ⟨fun hi => answers_csClassify (by rw [csClassify, if_pos hi]),
      fun _ hi => answers_csClassify (by rw [csClassify, if_neg (by omega), if_pos hi]),
      fun _ hi => answers_csClassify (by rw [csClassify, if_neg (by omega), if_neg (by omega), if_pos hi]),
      fun _ hi => answers_csClassify
        (by rw [csClassify, if_neg (by omega), if_neg (by omega), if_neg (by omega), if_pos hi]),
      fun _ => answers_csClassify
        (by rw [csClassify, if_neg (by omega), if_neg (by omega), if_neg (by omega), if_neg (by omega)])⟩

/-! ### The names of codes -/

/-- The codes CS_NAMED_PROTOCOL names, in the order of listing (42_closestatus.md R129). -/
def protocolCodes : List Nat := [1000, 1001, 1002, 1003, 1005, 1007, 1008, 1009, 1010, 1011]

/-- The codes CS_NAMED_IANA names, in the order of listing (42_closestatus.md R131). -/
def ianaCodes : List Nat := [3000, 3003]

/-- A code listed as a number is that number as a 16-bit word. -/
theorem eq_ofNat_of_getElem?_eq_toNat {codes : List Nat} {i : Nat} {code : BitVec 16}
    (h : codes[i]? = some code.toNat) : ∃ hi : i < codes.length, code = BitVec.ofNat 16 codes[i] := by
  obtain ⟨hi, hcode⟩ := List.getElem?_eq_some_iff.mp h
  exact ⟨hi, by rw [hcode, BitVec.ofNat_toNat, BitVec.setWidth_eq]⟩

theorem answers_csNamedProtocol (code : BitVec 16) :
    Answers (.csNamedProtocol code) (protocolNameResponse (csNamedProtocol code)) :=
  fun _ hs => answer_of_live hs _

theorem protocolNameResponse_of_listed : ∀ i : Fin protocolCodes.length,
    protocolNameResponse (csNamedProtocol (BitVec.ofNat 16 protocolCodes[i])) =
      .csNamedProtocol true (BitVec.ofNat 4 i) := by
  decide

theorem csNamedProtocol_of_not_mem {code : BitVec 16} (h : code.toNat ∉ protocolCodes) :
    csNamedProtocol code = none := by
  simp only [protocolCodes, List.mem_cons, List.not_mem_nil, or_false, not_or] at h
  simp [csNamedProtocol, ← BitVec.toNat_inj, h]

/-- Settles O29: the listed codes one by one, then all the others. -/
theorem tenProtocolCodesAreNamed : Obligations.TenProtocolCodesAreNamed := by
  refine fun code => ⟨fun name h => ?listed, fun h => ?others⟩
  case listed =>
    obtain ⟨hi, rfl⟩ := eq_ofNat_of_getElem?_eq_toNat (codes := protocolCodes) h
    exact protocolNameResponse_of_listed ⟨name, hi⟩ ▸ answers_csNamedProtocol _
  case others =>
    have hresponse : protocolNameResponse (csNamedProtocol code) = .csNamedProtocol false 0 := by
      rw [csNamedProtocol_of_not_mem h, protocolNameResponse]
    exact hresponse ▸ answers_csNamedProtocol code

theorem answers_csNamedIana (code : BitVec 16) :
    Answers (.csNamedIana code) (ianaNameResponse (csNamedIana code)) :=
  fun _ hs => answer_of_live hs _

theorem ianaNameResponse_of_listed : ∀ i : Fin ianaCodes.length,
    ianaNameResponse (csNamedIana (BitVec.ofNat 16 ianaCodes[i])) = .csNamedIana true (BitVec.ofNat 1 i) := by
  decide

theorem csNamedIana_of_not_mem {code : BitVec 16} (h : code.toNat ∉ ianaCodes) : csNamedIana code = none := by
  simp only [ianaCodes, List.mem_cons, List.not_mem_nil, or_false, not_or] at h
  simp [csNamedIana, ← BitVec.toNat_inj, h]

/-- Settles O30: the listed codes one by one, then all the others. -/
theorem twoIanaCodesAreNamed : Obligations.TwoIanaCodesAreNamed := by
  refine fun code => ⟨fun name h => ?listed, fun h => ?others⟩
  case listed =>
    obtain ⟨hi, rfl⟩ := eq_ofNat_of_getElem?_eq_toNat (codes := ianaCodes) h
    exact ianaNameResponse_of_listed ⟨name, hi⟩ ▸ answers_csNamedIana _
  case others =>
    have hresponse : ianaNameResponse (csNamedIana code) = .csNamedIana false 0 := by
      rw [csNamedIana_of_not_mem h, ianaNameResponse]
    exact hresponse ▸ answers_csNamedIana code

/-! ### The range of a named code -/

theorem mem_protocolCodes_of_hit {code : BitVec 16} {name : BitVec 4}
    (h : Answers (.csNamedProtocol code) (.csNamedProtocol true name)) : code.toNat ∈ protocolCodes := by
  by_contra hmem
  cases h.unique ((tenProtocolCodesAreNamed code).2 hmem)

theorem mem_ianaCodes_of_hit {code : BitVec 16} {name : BitVec 1}
    (h : Answers (.csNamedIana code) (.csNamedIana true name)) : code.toNat ∈ ianaCodes := by
  by_contra hmem
  cases h.unique ((twoIanaCodesAreNamed code).2 hmem)

theorem protocolCodes_bounds : ∀ n ∈ protocolCodes, 1000 ≤ n ∧ n ≤ 2999 := by decide

theorem ianaCodes_bounds : ∀ n ∈ ianaCodes, 3000 ≤ n ∧ n ≤ 3999 := by decide

/-- Settles O31: a code that is named is listed, and the lists lie in their ranges. -/
theorem namedCodesLieInTheirRange : Obligations.NamedCodesLieInTheirRange := by
  intro code
  obtain ⟨-, hprotocol, hiana, -⟩ := classifyIsTheRangeOfTheCode code
  refine ⟨fun name h => ?_, fun name h => ?_⟩
  · obtain ⟨lo, hi⟩ := protocolCodes_bounds _ (mem_protocolCodes_of_hit h)
    exact hprotocol lo hi
  · obtain ⟨lo, hi⟩ := ianaCodes_bounds _ (mem_ianaCodes_of_hit h)
    exact hiana lo hi

end Sys2Proof.Machine
end

/-! ## Family 43_decoder: what one DEC_FEED does, and a byte stream cut into chunks -/

section
/-! How the loop of DEC_FEED can end (43_decoder.md R163), and the two ways DEC_FEED then completes on the block
(R164). -/
namespace Sys2Proof.Machine

/-- What always holds of the end of a call on a decoder in state `st`: `parseError` tells whether the decoder is now
Errored, without it `numExtra` counts `pending`, and a call stops without result only under a finite `PENDING_CAP` or
with no header to read. -/
def FeedEnd.Sound (cap : Option Nat) (st : DecoderState) : FeedEnd → Prop
  | .commit st' e _ n =>
    st'.readable = true ∧ (e = true ↔ st'.status = .errored) ∧ (e = false → n = st'.pending.length)
  | .overflow => cap.isSome = true
  | .noHeader => st.readable = false

section
variable {cap : Option Nat} {st st' : DecoderState} {rest rest' : Bytes} {fs fs' : List Frame} {e : FeedEnd}

/-- A buffering point leaves the decoder live, and counts what it keeps. -/
theorem bufferRest_sound (hr : st.readable = true) (hlive : st.status ≠ .errored) :
    (bufferRest cap st rest fs).Sound cap st := by
  unfold bufferRest
  split
  · exact ⟨hr, by simp [hlive], fun _ => rfl⟩
  · next hfull =>
    cases cap with
    | none => exact absurd rfl hfull
    | some _ => rfl

theorem sound_of_errored (hst : st'.status = .errored) (n : Nat) : (FeedEnd.commit st' true fs n).Sound cap st :=
  ⟨by simp [DecoderState.readable, hst], by simp [hst], nofun⟩

/-- A row that ends the call ends it soundly. -/
theorem feedStep_stop_sound (hs : feedStep cap st rest fs = .stop e) : e.Sound cap st := by
  cases hst : st.status with
  | errored =>
    rw [feedStep_of_errored hst] at hs
    cases hs
    exact sound_of_errored hst _
  | awaitingHeader =>
    simp only [feedStep, hst] at hs
    split at hs <;> cases hs
    · exact bufferRest_sound (by simp [DecoderState.readable, hst]) (by simp [hst])
    all_goals exact sound_of_errored rfl _
  | awaitingPayload =>
    cases hh : st.currentHeader with
    | none =>
      rw [feedStep_of_noHeader hst hh] at hs
      cases hs
      simp [FeedEnd.Sound, DecoderState.readable, hst, hh]
    | some h =>
      simp only [feedStep, hst, hh] at hs
      split at hs <;> cases hs
      exact bufferRest_sound (by simp [DecoderState.readable, hh]) (by simp [hst])

/-- A row that goes on leaves a header to read where a payload is awaited. -/
theorem feedStep_more_readable (hs : feedStep cap st rest fs = .more st' rest' fs') : st'.readable = true := by
  unfold feedStep at hs
  split at hs
  · split at hs <;> cases hs
    rfl
  · split at hs
    · cases hs
    · split at hs <;> cases hs
      rfl
  · cases hs

/-- From a decoder that can be read, an end is sound whatever the decoder. -/
theorem FeedEnd.Sound.of_readable (he : e.Sound cap st') (hr : st'.readable = true) : e.Sound cap st := by
  cases e with
  | commit | overflow => exact he
  | noHeader => cases hr.symm.trans he

theorem feedRun_sound : (feedRun cap st rest fs).Sound cap st := by
  induction hrows : rowsLeft st rest using Nat.strong_induction_on generalizing st rest fs with
  | _ rows ih =>
    subst hrows
    cases hs : feedStep cap st rest fs with
    | stop e =>
      rw [feedRun_of_stop hs]
      exact feedStep_stop_sound hs
    | more st' rest' fs' =>
      rw [feedRun_of_more hs]
      exact (ih _ (feedStep_decreases hs) rfl).of_readable (feedStep_more_readable hs)

end

theorem feed_of_errored {st : DecoderState} (cap : Option Nat) (chunk : Bytes) (hst : st.status = .errored) :
    feed cap st chunk = .commit st true [] chunk.length := if_pos hst

theorem feed_of_live {st : DecoderState} (cap : Option Nat) (chunk : Bytes) (hst : st.status ≠ .errored) :
    feed cap st chunk = feedRun cap st (st.pending ++ chunk) [] := if_neg hst

theorem feed_sound (cap : Option Nat) (st : DecoderState) (chunk : Bytes) : (feed cap st chunk).Sound cap st := by
  by_cases hst : st.status = .errored
  · rw [feed_of_errored cap chunk hst]
    exact sound_of_errored hst _
  · rw [feed_of_live cap chunk hst]
    exact feedRun_sound

/-- On a decoder that can be read, DEC_FEED commits, or finds that `pending` would not fit (43_decoder.md R164). -/
theorem feed_of_readable (cap : Option Nat) {st : DecoderState} (chunk : Bytes) (hr : st.readable = true) :
    (∃ st' e fs n, feed cap st chunk = .commit st' e fs n ∧ st'.readable = true ∧ (e = true ↔ st'.status = .errored)) ∨
    (cap.isSome = true ∧ feed cap st chunk = .overflow) := by
  have hsound := feed_sound cap st chunk
  cases hf : feed cap st chunk with
  | commit st' e fs n =>
    rw [hf] at hsound
    obtain ⟨hr', he, -⟩ := hsound
    exact .inl ⟨st', e, fs, n, rfl, hr', he⟩
  | overflow =>
    rw [hf] at hsound
    exact .inr ⟨hsound, rfl⟩
  | noHeader =>
    rw [hf] at hsound
    cases hr.symm.trans hsound

/-! ### DEC_FEED on the block, by the end of its loop -/

/-- The state that is written to a decoder is the one the next operation finds there. -/
theorem getElem?_setDecoder {s : State} {d : Nat} {st : DecoderState} (hd : s.decoders[d]? = some st)
    (st' : DecoderState) : (s.setDecoder d st').decoders[d]? = some st' := by
  simp [(List.getElem?_eq_some_iff.mp hd).1]

section
variable {s : State} {d : Nat} {st : DecoderState} {chunk : Bytes} (hs : s.fault = .none)
  (hd : s.decoders[d]? = some st)
include hs hd

theorem exec_decFeed_of_overflow (hf : feed s.pendingCap st chunk = .overflow) :
    exec (.decFeed d chunk) s = .next (s.raise .pendingOverflow) := by
  simp only [exec, execDecFeed, withDecoder_of_live hs hd, hf]

/-- A call that ends at its first buffering point keeps all its bytes, if they fit (43_decoder.md R143, R146, R155). -/
theorem exec_decFeed_of_bufferRest
    (hf : feed s.pendingCap st chunk = bufferRest s.pendingCap st (st.pending ++ chunk) []) :
    exec (.decFeed d chunk) s =
      if fitsCap s.pendingCap (st.pending.length + chunk.length) then
        .next { s with decoders := s.decoders.set d { st with pending := st.pending ++ chunk },
                       responses := s.responses ++ [.decFeed false [] (st.pending.length + chunk.length)] }
      else .next { s with fault := .pendingOverflow, responses := s.responses ++ [.fault .pendingOverflow] } := by
  unfold bufferRest at hf
  rw [List.length_append] at hf
  split_ifs at hf ⊢
  · exact exec_decFeed_of_commit hs hd hf
  · exact exec_decFeed_of_overflow hs hd hf

/-- A row that goes on: the call delivers the frames `pre` of that row ahead of those of a call on the bytes that remain,
on a decoder in the state that row leads to; an overflow there leaves the decoder as it was before the call (43_decoder.md
R144, R147, R164). -/
theorem exec_decFeed_of_row {st₁ : DecoderState} {rest : Bytes} {pre : List Frame} (hr : st₁.readable = true)
    (hf : feed s.pendingCap st chunk = (feed s.pendingCap st₁ rest).withFrames pre) :
    (∃ st' e fs n,
      exec (.decFeed d rest) (s.setDecoder d st₁) = .next ((s.setDecoder d st').respond (.decFeed e fs n)) ∧
      exec (.decFeed d chunk) s = .next ((s.setDecoder d st').respond (.decFeed e (pre ++ fs) n))) ∨
    (exec (.decFeed d rest) (s.setDecoder d st₁) = .next ((s.setDecoder d st₁).raise .pendingOverflow) ∧
      exec (.decFeed d chunk) s = .next (s.raise .pendingOverflow)) := by
  have hd₁ := getElem?_setDecoder hd st₁
  obtain ⟨st', e, fs, n, hrest, -⟩ | ⟨-, hrest⟩ := feed_of_readable s.pendingCap rest hr
  · rw [hrest] at hf
    have hset : (s.setDecoder d st₁).setDecoder d st' = s.setDecoder d st' := by simp [State.setDecoder]
    refine .inl ⟨st', e, fs, n, ?_, exec_decFeed_of_commit hs hd hf⟩
    rw [← hset]
    exact exec_decFeed_of_commit hs hd₁ hrest
  · rw [hrest] at hf
    exact .inr ⟨exec_decFeed_of_overflow hs hd₁ hrest, exec_decFeed_of_overflow hs hd hf⟩

end

/-- What DEC_FEED can do when it answers a next state. -/
theorem exec_decFeed_next {s t : State} {d : Nat} {chunk : Bytes} (h : exec (.decFeed d chunk) s = .next t) :
    (∃ st st' e fs n, s.decoders[d]? = some st ∧ feed s.pendingCap st chunk = .commit st' e fs n ∧
      t = (s.setDecoder d st').respond (.decFeed e fs n)) ∨
    ∃ c, t = s.raise c := by
  obtain ⟨-, ⟨st, hd, h⟩ | ⟨-, rfl⟩⟩ := withDecoder_next h
  · split at h <;> cases h
    · next hf => exact .inl ⟨st, _, _, _, _, hd, hf, rfl⟩
    · exact .inr ⟨_, rfl⟩
  · exact .inr ⟨_, rfl⟩

/-! ### The first row of a call -/

section
variable {cap : Option Nat} {st : DecoderState} {chunk : Bytes} {h : Header} {n : Nat}

theorem feed_of_incomplete (hst : st.status = .awaitingHeader) (hd : hdrDecode (st.pending ++ chunk) = .incomplete) :
    feed cap st chunk = bufferRest cap st (st.pending ++ chunk) [] := by
  rw [feed_of_live cap chunk (by simp [hst]), feedRun_of_stop (feedStep_of_incomplete hst hd)]

theorem feed_of_structuralError (hst : st.status = .awaitingHeader)
    (hd : hdrDecode (st.pending ++ chunk) ∈
      [.invalidOpCode, .payloadSizeInflatedEncoding, .payloadSizeEighthByteMSBNotZero]) :
    feed cap st chunk = .commit .failed true [] (st.pending.length + chunk.length) := by
  have hinc : hdrDecode (st.pending ++ chunk) ≠ .incomplete := fun e => by simp [e] at hd
  have hsucc : ∀ h n, hdrDecode (st.pending ++ chunk) ≠ .success h n := fun _ _ e => by simp [e] at hd
  rw [feed_of_live cap chunk (by simp [hst]), feedRun_of_stop (feedStep_of_structuralError hst hinc hsucc),
    List.length_append]

theorem feed_of_success (hst : st.status = .awaitingHeader) (hd : hdrDecode (st.pending ++ chunk) = .success h n) :
    feed cap st chunk =
      (feed cap { status := .awaitingPayload, pending := [], currentHeader := some h }
        ((st.pending ++ chunk).drop n)).withFrames [] := by
  rw [feed_of_live cap chunk (by simp [hst]), feedRun_of_more (feedStep_of_success hst hd), feedRun_withFrames,
    feed_of_live _ _ (by simp), List.nil_append]

theorem feed_of_shortPayload (hst : st.status = .awaitingPayload) (hh : st.currentHeader = some h)
    (hl : st.pending.length + chunk.length < h.payloadSize.toNat) :
    feed cap st chunk = bufferRest cap st (st.pending ++ chunk) [] := by
  rw [feed_of_live cap chunk (by simp [hst]), feedRun_of_stop (feedStep_of_shortPayload hst hh (by simpa using hl))]

theorem feed_of_payload (hst : st.status = .awaitingPayload) (hh : st.currentHeader = some h)
    (hl : h.payloadSize.toNat ≤ st.pending.length + chunk.length) :
    feed cap st chunk =
      (feed cap .initial ((st.pending ++ chunk).drop h.payloadSize.toNat)).withFrames
        [mkFrame h ((st.pending ++ chunk).take h.payloadSize.toNat)] := by
  rw [feed_of_live cap chunk (by simp [hst]), feedRun_of_more (feedStep_of_payload hst hh (by simpa using hl)),
    List.nil_append, feedRun_withFrames, feed_of_live _ _ (by simp [DecoderState.initial])]
  rfl

end

/-- Settles O33. -/
theorem feedOnErroredReportsAgain : Obligations.FeedOnErroredReportsAgain := by
  intro s d st chunk hs hd hst
  rw [exec_decFeed_of_commit hs hd (feed_of_errored _ chunk hst), setDecoder_of_getElem? hd]
  rfl

/-- Settles O34: the first row is a buffering point. -/
theorem feedBuffersAnIncompleteHeader : Obligations.FeedBuffersAnIncompleteHeader :=
  fun _ _ _ _ hs hd hst hinc => exec_decFeed_of_bufferRest hs hd (feed_of_incomplete hst hinc)

/-- Settles O35. -/
theorem feedFailsOnAStructuralError : Obligations.FeedFailsOnAStructuralError :=
  fun _ _ _ _ hs hd hst herr => exec_decFeed_of_commit hs hd (feed_of_structuralError hst herr)

/-- Settles O36: the first row is a header row, which completes no frame. -/
theorem feedGoesOnAfterAHeader : Obligations.FeedGoesOnAfterAHeader := by
  intro s d st chunk h n hs hd hst hsucc
  obtain ⟨st', e, fs, m, hrest, hcall⟩ | ⟨hrest, hcall⟩ :=
    exec_decFeed_of_row hs hd rfl (feed_of_success hst hsucc)
  · exact ⟨_, hrest, fun _ => hcall, fun hfault => absurd hs hfault⟩
  · exact ⟨_, hrest, nofun, fun _ => hcall⟩

/-- Settles O37: the first row is a buffering point. -/
theorem feedBuffersAShortPayload : Obligations.FeedBuffersAShortPayload :=
  fun _ _ _ _ _ hs hd hst hh hl => exec_decFeed_of_bufferRest hs hd (feed_of_shortPayload hst hh hl)

/-- Settles O38: the first row is a payload row, which completes one frame. -/
theorem feedEmitsACompletePayload : Obligations.FeedEmitsACompletePayload := by
  intro s d st chunk h hs hd hst hh hl
  obtain ⟨st', e, fs, m, hrest, hcall⟩ | ⟨hrest, hcall⟩ :=
    exec_decFeed_of_row hs hd rfl (feed_of_payload hst hh hl)
  · exact ⟨_, hrest, fun hfault => absurd hs hfault, fun _ => ⟨e, fs, m, rfl, hcall⟩⟩
  · exact ⟨_, hrest, fun _ => hcall, nofun⟩

/-- Settles O39, by the two ways a call on a readable decoder can end (`feed_of_readable`). -/
theorem feedIsAtomic : Obligations.FeedIsAtomic := by
  refine fun s d chunk hs => ⟨fun st hd hr => ?_, fun hd => withDecoder_of_out_of_range hs hd _⟩
  obtain ⟨st', e, fs, n, hf, -, he⟩ | ⟨hcap, hf⟩ := feed_of_readable s.pendingCap chunk hr
  · exact .inl ⟨st', e, fs, n, exec_decFeed_of_commit hs hd hf, he⟩
  · exact .inr ⟨hcap, exec_decFeed_of_overflow hs hd hf⟩

/-- Settles O40: the response is that of a commit, which is sound. -/
theorem numExtraIsTheLengthOfPending : Obligations.NumExtraIsTheLengthOfPending := by
  intro s t d chunk frames n h hresp
  obtain ⟨st, st', e, fs, m, hd, hf, rfl⟩ | ⟨c, rfl⟩ := exec_decFeed_next h
  · have hsound := feed_sound s.pendingCap st chunk
    rw [hf] at hsound
    obtain ⟨-, -, hcount⟩ := hsound
    obtain ⟨rfl, rfl, rfl⟩ : e = false ∧ fs = frames ∧ m = n := by simpa using hresp
    exact ⟨st', getElem?_setDecoder hd st', hcount rfl⟩
  · simp at hresp

/-- What the invariant keeps in `pending` is too short for the header or the payload awaited (10_state.md R31, R32). -/
theorem feed_nil_of_inv {cap : Option Nat} {st : DecoderState} (hi : st.Inv cap) (hlive : st.status ≠ .errored) :
    feed cap st [] = .commit st false [] st.pending.length := by
  have hbuffer : bufferRest cap st (st.pending ++ []) [] = .commit st false [] st.pending.length := by
    rw [List.append_nil, bufferRest, if_pos hi.pending_fits]
  rw [← hbuffer]
  cases hst : st.status with
  | errored => exact absurd hst hlive
  | awaitingHeader => exact feed_of_incomplete hst (by rw [List.append_nil]; exact (hi.pending_header hst).1)
  | awaitingPayload =>
    obtain ⟨h, hh⟩ := Option.isSome_iff_exists.mp (hi.header_iff.mpr hst)
    exact feed_of_shortPayload hst hh (hi.pending_payload h hh)

/-- Settles O41. -/
theorem emptyChunkChangesNothing : Obligations.EmptyChunkChangesNothing := by
  intro s d st hs hd hi hlive
  rw [exec_decFeed_of_commit hs hd (feed_nil_of_inv hi hlive), setDecoder_of_getElem? hd]
  rfl

end Sys2Proof.Machine
end

section
/-! Fragmentation invariance (43_decoder.md R154), by induction over the chunks. -/
namespace Sys2Proof.Machine

/-- The calls on `chunks` leave the decoder in state `st` and respond `rs`, one response each. -/
def CallsGive (s : State) (d : Nat) (chunks : List Bytes) (st : DecoderState) (rs : List Response) : Prop :=
  feedAll d chunks s = some { s with decoders := s.decoders.set d st, responses := s.responses ++ rs } ∧
    rs.length = chunks.length

/-- What 43_decoder.md R154 says of calls that leave the decoder in state `st` and respond `rs`, by the end of the one
call on the whole. -/
def FeedEnd.AgreesWith (st : DecoderState) (rs : List Response) : FeedEnd → Prop
  | .commit st' false fs n =>
    rs.flatMap Response.frames = fs ∧ (∀ r ∈ rs, r.parseError = false) ∧ st = st' ∧
      (rs.map Response.numExtra).getLast? = some n
  | .commit st' true fs _ =>
    rs.flatMap Response.frames = fs ∧
      (∃ pre post, rs = pre ++ post ∧ post ≠ [] ∧ (∀ r ∈ pre, r.parseError = false) ∧
        (∀ r ∈ post, r.parseError = true)) ∧ st'.status = .errored ∧ st.status = .errored
  | .overflow => False
  | .noHeader => False

/-- A call without error in front of others: its frames come first. -/
theorem FeedEnd.AgreesWith.cons {e : FeedEnd} {st : DecoderState} {rs : List Response} (he : e.AgreesWith st rs)
    (fs : List Frame) (n : Nat) : (e.withFrames fs).AgreesWith st (.decFeed false fs n :: rs) := by
  cases e with
  | overflow | noHeader => exact he
  | commit st' err fs' n' =>
    cases err with
    | false =>
      obtain ⟨rfl, hok, hst, hlast⟩ := he
      refine ⟨by simp [Response.frames], List.forall_mem_cons.mpr ⟨rfl, hok⟩, hst, ?_⟩
      rw [List.map_cons, List.getLast?_cons, hlast]
      rfl
    | true =>
      obtain ⟨rfl, ⟨pre, post, rfl, hpost, hok, herr⟩, hst⟩ := he
      exact ⟨by simp [Response.frames],
        ⟨.decFeed false fs n :: pre, post, rfl, hpost, List.forall_mem_cons.mpr ⟨rfl, hok⟩, herr⟩, hst⟩

/-- A call with an error in front of others that report it again. -/
theorem agreesWith_of_error {st : DecoderState} {fs : List Frame} {rs : List Response} (hst : st.status = .errored)
    (hframes : rs.flatMap Response.frames = []) (herr : ∀ r ∈ rs, r.parseError = true) (n k : Nat) :
    (FeedEnd.commit st true fs k).AgreesWith st (.decFeed true fs n :: rs) :=
  ⟨by simp [Response.frames, hframes],
    ⟨[], _, rfl, List.cons_ne_nil _ _, by simp, List.forall_mem_cons.mpr ⟨rfl, herr⟩⟩, hst, hst⟩

section
variable {s : State} {d : Nat} {st : DecoderState}

theorem callsGive_nil (hd : s.decoders[d]? = some st) : CallsGive s d [] st [] := by
  have hself := setDecoder_of_getElem? hd
  simp only [State.setDecoder] at hself
  simp [CallsGive, feedAll, hself]

theorem callsGive_cons {st₁ st₂ : DecoderState} {c : Bytes} {cs : List Bytes} {e : Bool} {fs : List Frame} {n : Nat}
    {rs : List Response} (hs : s.fault = .none) (hd : s.decoders[d]? = some st)
    (hc : feed s.pendingCap st c = .commit st₁ e fs n)
    (hcs : CallsGive ((s.setDecoder d st₁).respond (.decFeed e fs n)) d cs st₂ rs) :
    CallsGive s d (c :: cs) st₂ (.decFeed e fs n :: rs) := by
  obtain ⟨hall, hlen⟩ := hcs
  refine ⟨?_, by simp [hlen]⟩
  simp only [feedAll, exec_decFeed_of_commit hs hd hc, hall]
  simp [State.setDecoder, State.respond]

/-- On an Errored decoder every call reports the error and delivers nothing (43_decoder.md R141). -/
theorem callsGive_of_errored (chunks : List Bytes) (hs : s.fault = .none) (hd : s.decoders[d]? = some st)
    (hst : st.status = .errored) :
    ∃ rs, CallsGive s d chunks st rs ∧ rs.flatMap Response.frames = [] ∧ ∀ r ∈ rs, r.parseError = true := by
  induction chunks generalizing s with
  | nil => exact ⟨[], callsGive_nil hd, rfl, by simp⟩
  | cons c cs ih =>
    obtain ⟨rs, hcs, hframes, herr⟩ := ih (s := (s.setDecoder d st).respond _) hs (getElem?_setDecoder hd st)
    exact ⟨_, callsGive_cons hs hd (feed_of_errored _ c hst) hcs, by simpa [Response.frames] using hframes,
      List.forall_mem_cons.mpr ⟨rfl, herr⟩⟩

/-- The calls on the chunks agree with one call on the whole (43_decoder.md R154). -/
theorem callsGive_agreesWith (chunks : List Bytes) (hne : chunks ≠ []) (hs : s.fault = .none)
    (hcap : s.pendingCap = none) (hd : s.decoders[d]? = some st) (hr : st.readable = true) :
    ∃ st₂ rs, CallsGive s d chunks st₂ rs ∧ (feed none st chunks.flatten).AgreesWith st₂ rs := by
  induction chunks generalizing s st with
  | nil => exact absurd rfl hne
  | cons c cs ih =>
    obtain ⟨st₁, e, fs, n, hc, hr₁, he⟩ | ⟨hfinite, -⟩ := feed_of_readable none c hr
    · have hs₁ : ((s.setDecoder d st₁).respond (.decFeed e fs n)).fault = .none := hs
      have hd₁ : ((s.setDecoder d st₁).respond (.decFeed e fs n)).decoders[d]? = some st₁ := getElem?_setDecoder hd st₁
      rw [List.flatten_cons, feed_append, hc]
      cases e with
      | true =>
        have hst₁ : st₁.status = .errored := he.mp rfl
        obtain ⟨rs, hcs, hframes, herr⟩ := callsGive_of_errored cs hs₁ hd₁ hst₁
        exact ⟨_, _, callsGive_cons hs hd (hcap ▸ hc) hcs, agreesWith_of_error hst₁ hframes herr n _⟩
      | false =>
        by_cases hcs : cs = []
        · subst hcs
          refine ⟨_, _, callsGive_cons hs hd (hcap ▸ hc) (callsGive_nil hd₁), ?_⟩
          rw [FeedEnd.thenFeed, List.flatten_nil, feed_nil_of_commit hc]
          simp [FeedEnd.withFrames, FeedEnd.AgreesWith, Response.frames, Response.parseError, Response.numExtra]
        · obtain ⟨st₂, rs, hcalls, hagree⟩ := ih hcs hs₁ hcap hd₁ hr₁
          exact ⟨st₂, _, callsGive_cons hs hd (hcap ▸ hc) hcalls, hagree.cons fs n⟩
    · cases hfinite

end

/-- Settles O43: one call on the whole completes, and the calls on the chunks agree with it (`callsGive_agreesWith`). -/
theorem fragmentationInvariance : Obligations.FragmentationInvariance := by
  intro s d st chunks hs hcap hd hr hne
  obtain ⟨st₂, rs, ⟨hall, hlen⟩, hagree⟩ := callsGive_agreesWith chunks hne hs hcap hd hr
  obtain ⟨st₁, e, fs, n, hf, -⟩ | ⟨hfinite, -⟩ := feed_of_readable none chunks.flatten hr
  · rw [hf] at hagree
    refine ⟨st₁, e, fs, n, st₂, rs, exec_decFeed_of_commit hs hd (hcap ▸ hf), hall, hlen, ?_⟩
    cases e with
    | false =>
      obtain ⟨hframes, hclean⟩ := hagree
      exact ⟨hframes, fun _ => hclean, nofun⟩
    | true =>
      obtain ⟨hframes, hfailed⟩ := hagree
      exact ⟨hframes, nofun, fun _ => hfailed⟩
  · cases hfinite

end Sys2Proof.Machine
end

/-! ## Family 60_exceptions: Faults, the quiescent block, and the completion of every step of a live block -/

section
/-! What leaves `Errored` and what clears `FAULT` (60_exceptions.md R176). -/
namespace Sys2Proof.Machine

/-- DEC_INIT has the one command byte 0x30 (30_encoding.md R70), and no header byte decodes to it. -/
theorem command_of_decodeRequest_decInit {r : Request} {d : Nat} (h : decodeRequest r = .ok (.decInit d)) :
    ∃ ops, r = .command 0x30 ops ∧ ops.d = d := by
  cases r with
  | command cmd ops =>
    simp only [decodeRequest, decodeCommand] at h
    repeat' split at h
    all_goals cases h
    next hcmd => exact ⟨ops, by rw [hcmd], rfl⟩
  | headerByte0 b rest =>
    obtain ⟨-, he⟩ := decodeByte0_wf_encode b rest
    rw [Except.ok.inj h] at he
    cases he
  | headerByte1 b0 b1 rest =>
    obtain ⟨-, he⟩ := decodeByte1_wf_encode b0 b1 rest
    rw [Except.ok.inj h] at he
    cases he

/-- Every operation but DEC_INIT of that decoder leaves an Errored decoder as it is; DEC_FEED commits the same state again
(43_decoder.md R141). -/
theorem Effect.keeps_errored {i : Instr} {s t : State} (he : Effect i s t) {d : Nat} {st : DecoderState}
    (hd : s.decoders[d]? = some st) (hst : st.status = .errored) (hi : i ≠ .decInit d) :
    t.decoders[d]? = some st := by
  by_cases hon : OnDecoder i d
  · obtain rfl | ⟨chunk, rfl⟩ := hon
    · exact absurd rfl hi
    · cases he with
      | responds | raises => exact hd
      | inits _ _ hinit => cases hinit
      | feeds _ _ _ _ _ _ _ hfeed hd₁ hf =>
        cases hfeed
        cases hd.symm.trans hd₁
        cases (feed_of_errored s.pendingCap chunk hst).symm.trans hf
        exact getElem?_setDecoder hd st
  · exact (he.decoders_of_not_onDecoder hon).trans hd

/-- A step that takes neither block reset nor DEC_INIT of that decoder leaves an Errored decoder as it is. -/
theorem step_keeps_errored {s t : State} (h : step s = .next t) {d : Nat} {st : DecoderState}
    (hd : s.decoders[d]? = some st) (hst : st.status = .errored) (hreset : s.inputs.head? ≠ some .blockReset)
    (hinit : ∀ r, s.inputs.head? = some (.request r) → decodeRequest r ≠ .ok (.decInit d)) :
    t.decoders[d]? = some st := by
  obtain ⟨-, rfl⟩ | ⟨rest, hin, -⟩ | ⟨r, rest, hin, -, rfl | ⟨i, hdec, he⟩⟩ := step_next h
  · exact hd
  · exact absurd (by rw [hin]; rfl) hreset
  · exact hd
  · refine he.keeps_errored hd hst ?_
    rintro rfl
    exact hinit r (by rw [hin]; rfl) hdec

/-- While `FAULT ≠ 0` a step that completes was idle or took a block reset (60_exceptions.md R173). -/
theorem step_next_of_fault {s t : State} (hs : s.fault ≠ .none) (h : step s = .next t) :
    t = s ∨ s.inputs.head? = some .blockReset := by
  obtain ⟨-, rfl⟩ | ⟨rest, hin, -⟩ | ⟨r, rest, -, hlive, -⟩ := step_next h
  · exact .inl rfl
  · exact .inr (by rw [hin]; rfl)
  · exact absurd hlive hs

/-- Settles O46: any other step leaves an Errored decoder as it is (`step_keeps_errored`), and a block with `FAULT ≠ 0` as
it is (`step_next_of_fault`). -/
theorem erroredAndFaultAreLeftOnlyByReset : Obligations.ErroredAndFaultAreLeftOnlyByReset := by
  intro s t h
  constructor
  · intro d st st' hd hst hd' hst'
    by_contra! hno
    obtain ⟨hreset, hinit⟩ := hno
    have hkept : t.decoders[d]? = some st := step_keeps_errored h hd hst hreset fun r hr hdec => by
      obtain ⟨ops, rfl, hops⟩ := command_of_decodeRequest_decInit hdec
      exact hinit ops hr hops
    cases hkept.symm.trans hd'
    exact hst' hst
  · intro hs ht
    obtain rfl | hreset := step_next_of_fault hs h
    · exact absurd ht hs
    · exact hreset

end Sys2Proof.Machine
end

section
/-! The block while `FAULT ≠ 0`, and the one change a Fault makes (60_exceptions.md R170, R173). -/
namespace Sys2Proof.Machine

/-- The first test of every operation is that of `FAULT` (60_exceptions.md R169). -/
theorem exec_of_fault {s : State} (hs : s.fault ≠ .none) (i : Instr) : exec i s = .fault (.quiescent s.fault) := by
  cases i <;> exact whenLive_of_fault hs _

theorem step_of_blockReset {s : State} {rest : List HostInput} (hin : s.inputs = .blockReset :: rest) :
    step s = .next (s.blockReset rest) := by
  simp only [step, hin]

theorem step_request_of_fault {s : State} {r : Request} {rest : List HostInput} (hs : s.fault ≠ .none)
    (hin : s.inputs = .request r :: rest) : step s = .fault (.quiescent s.fault) := by
  simp only [step, hin, whenLive_of_fault hs]

/-- Settles O6. -/
theorem faultedBlockIsQuiescent : Obligations.FaultedBlockIsQuiescent := by
  intro s hs
  refine ⟨exec_of_fault hs, fun r rest hin => step_request_of_fault hs hin, fun rest hin => ?_, ?_⟩
  · exact ⟨_, step_of_blockReset hin, blockReset_fault s rest⟩
  · simp [State.endsNormally, hs]

/-- An operation of a live block that leaves `FAULT ≠ 0` has only raised it. -/
theorem Effect.eq_raise {i : Instr} {s t : State} (he : Effect i s t) (hlive : s.fault = .none)
    (ht : t.fault ≠ .none) : t = s.raise t.fault := by
  cases he with
  | raises c _ => rfl
  | responds | inits | feeds => exact absurd hlive ht

/-- Settles O47: the request is reserved and raises BAD_COMMAND, or its operation raises a Fault (`Effect.eq_raise`). -/
theorem faultsArePrecise : Obligations.FaultsArePrecise := by
  intro s t r rest hin h ht
  obtain ⟨hnil, -⟩ | ⟨_, hreset, -⟩ | ⟨_, _, hin', hs, he⟩ := step_next h
  · cases hnil.symm.trans hin
  · cases hreset.symm.trans hin
  · cases hin'.symm.trans hin
    obtain rfl | ⟨i, -, he⟩ := he
    · exact ⟨hs, rfl⟩
    · exact ⟨hs, he.eq_raise hs ht⟩

end Sys2Proof.Machine
end

section
/-! An operation never waits (60_exceptions.md R184): on a live block whose decoders can all be read it completes. -/
namespace Sys2Proof.Machine

/-- A decoder that meets the invariant has a header to read when it awaits a payload (10_state.md R26). -/
theorem DecoderState.Inv.readable {cap : Option Nat} {st : DecoderState} (hi : st.Inv cap) : st.readable = true := by
  by_cases hst : st.status = .awaitingPayload
  · simp [DecoderState.readable, hi.header_iff.mpr hst]
  · simp [DecoderState.readable, hst]

section
variable {s : State} (hs : s.fault = .none)
include hs

/-- A Decoder operation completes if it completes on the decoder it names; an index out of range is a Fault
(30_encoding.md R71). -/
theorem withDecoder_completes (d : Nat) {k : DecoderState → StepResult}
    (hk : ∀ st, s.decoders[d]? = some st → ∃ t, k st = .next t) : ∃ t, s.withDecoder d k = .next t := by
  cases hd : s.decoders[d]? with
  | none => exact ⟨_, withDecoder_of_out_of_range hs (List.getElem?_eq_none_iff.mp hd) k⟩
  | some st =>
    rw [withDecoder_of_live hs hd]
    exact hk st hd

/-- DEC_FEED completes on decoders that can be read: it commits, or `pending` would not fit (43_decoder.md R164). -/
theorem exec_decFeed_completes (hr : ∀ st ∈ s.decoders, st.readable = true) (d : Nat) (chunk : Bytes) :
    ∃ t, exec (.decFeed d chunk) s = .next t := by
  refine withDecoder_completes hs d fun st hd => ?_
  obtain ⟨_, _, _, _, hf, -⟩ | ⟨-, hf⟩ := feed_of_readable s.pendingCap chunk (hr st (List.mem_of_getElem? hd))
  · exact ⟨_, by rw [hf]⟩
  · exact ⟨_, by rw [hf]⟩

/-- Every operation completes: the two encoders and DEC_INIT in each branch of their tests, DEC_FEED on decoders that can
be read, and the rest with their one response. -/
theorem exec_completes (hr : ∀ st ∈ s.decoders, st.readable = true) (i : Instr) : ∃ t, exec i s = .next t := by
  cases i with
  | hdrEncode h cap =>
    rw [exec, execHdrEncode, whenLive_of_live hs]
    split_ifs <;> exact ⟨_, rfl⟩
  | csEncode code cap =>
    rw [exec, execCsEncode, whenLive_of_live hs]
    split_ifs <;> exact ⟨_, rfl⟩
  | decInit d => exact withDecoder_completes hs d fun _ _ => ⟨_, rfl⟩
  | decFeed d chunk => exact exec_decFeed_completes hs hr d chunk
  | hdrDecode | hdrSize | maskApply | csDecode | csClassify | csNamedProtocol | csNamedIana
  | frameContinuation | frameText | frameBinary | frameConnectionClose | framePing | framePong | frameInvalidOpcode
  | len7 | len16 | len64 => exact ⟨_, answer_of_live hs _⟩

/-- Every request completes: with its operation, or with BAD_COMMAND (30_encoding.md R71). -/
theorem runRequest_completes (hr : ∀ st ∈ s.decoders, st.readable = true) (r : Request) :
    ∃ t, runRequest r s = .next t := by
  unfold runRequest
  split
  · exact exec_completes hs hr _
  · exact ⟨_, rfl⟩

end

/-- Settles O52, by the next input: only a request has anything to perform (`runRequest_completes`). -/
theorem everyStepOfALiveBlockCompletes : Obligations.EveryStepOfALiveBlockCompletes := by
  intro s hinv hs
  cases hin : s.inputs with
  | nil => exact ⟨s, by simp only [step, hin]⟩
  | cons input rest =>
    cases input with
    | blockReset => exact ⟨_, step_of_blockReset hin⟩
    | request r =>
      rw [step_of_request hs hin]
      exact runRequest_completes (s := s.accept r rest) hs (fun st hst => (hinv.decoders_inv st hst).readable) r

end Sys2Proof.Machine
end

section
/-! Block reset and DEC_INIT: the two ways back to the reset values (70_reset_and_hazards.md R185, R186). -/
namespace Sys2Proof.Machine

/-- The reset state has the parameters it was given: as many instances, and the other two unchanged. -/
@[simp] theorem resetOf_config (c : Config) : (State.resetOf c).config = c := by
  simp only [State.config, State.resetOf, List.length_replicate]

theorem getElem?_resetOf_decoders (c : Config) {d : Nat} (hd : d < c.numDecoders) :
    (State.resetOf c).decoders[d]? = some .initial :=
  List.getElem?_replicate_of_lt hd

@[simp] theorem blockReset_config (s : State) (rest : List HostInput) : (s.blockReset rest).config = s.config :=
  resetOf_config s.config

/-- Settles O7: block reset leaves the reset state of the block's own parameters. -/
theorem blockResetRestoresResetValues : Obligations.BlockResetRestoresResetValues := by
  constructor
  · exact fun c => ⟨rfl, resetOf_config c, fun d hd => getElem?_resetOf_decoders c hd⟩
  · intro s rest hin
    exact ⟨s.blockReset rest, step_of_blockReset hin, blockReset_fault s rest, blockReset_config s rest,
      fun d hd => getElem?_resetOf_decoders s.config hd⟩

/-- Settles O32, by whether the index names an instance: whatever that instance held, DEC_INIT writes the initial state. -/
theorem decInitRestartsOneInstance : Obligations.DecInitRestartsOneInstance := by
  intro s d hs
  split_ifs with hd
  · exact withDecoder_of_live hs (List.getElem?_eq_getElem hd) _
  · exact withDecoder_of_out_of_range hs (Nat.le_of_not_lt hd) _

end Sys2Proof.Machine
end
